-- ==== Sys2Proof/Word.lean ====
section
/-! DEFINITION. The 32-bit word of the host window and of a command (20_memory.md R72, 30_encoding.md R100),
and the plain integer helper of the notation (00_scope.md R11). -/

namespace Sys2Proof

/-- A 32-bit word: a command word (R100) or one access of the host window (R72). -/
abbrev Word := BitVec 32

/-- `bitlength(x)`: the least `n` with `x < 2^n`, so `bitlength 0 = 0` (00_scope.md R11). -/
def bitlength (x : Nat) : Nat := if x = 0 then 0 else Nat.log2 x + 1

end Sys2Proof
end

