-- ==== Sys2Proof/Syntax.lean ====
section
/-! DEFINITION. The commands of the engine: one constructor per row of spec/opcode_table.json, with the operands
30_encoding.md R102 to R104 give it, the destination first as in the assembler syntax (R109). -/

namespace Sys2Proof

/-- The index of a field-element register `F[i]` (10_state.md R31). -/
abbrev FIdx := Fin 16

/-- The index of an integer register `X[i]` (10_state.md R39). -/
abbrev XIdx := Fin 16

/-- A decoded command (30_encoding.md R105). In `cswap` and `cmov`, `sel` is the field `S` and `c` the field `C`;
in `imul`, `k` is the signed scalar; in `ldc`, `k` is the ROM index (R103). -/
inductive Instr where
  | nop
  | zero (d : FIdx)
  | one (d : FIdx)
  | copy (d a : FIdx)
  | ldc (d : FIdx) (k : Fin 16)
  | tores (d : FIdx) (a : XIdx)
  | fromres (d : XIdx) (a : FIdx)
  | rdd (d a b : XIdx)
  | add (d a b : FIdx)
  | sub (d a b : FIdx)
  | neg (d a : FIdx)
  | mul (d a b : FIdx)
  | sqr (d a : FIdx)
  | imul (d a : FIdx) (k : Int)
  | half (d a : FIdx)
  | fred (d a : FIdx)
  | pow (d a : FIdx) (b : XIdx)
  | inv (d a : FIdx)
  | sqrt (d a : FIdx)
  | qr (a : FIdx)
  | isz (a : FIdx)
  | equ (a b : FIdx)
  | cswap (d a : FIdx) (sel c : Bool)
  | cmov (d a : FIdx) (sel c : Bool)
deriving DecidableEq, Repr

end Sys2Proof
end

