-- ==== Sys2Proof/WellFormed.lean ====
section
/-! DEFINITION. Which terms of `Instr` are commands a word can carry (30_encoding.md R103, R106): the scalar of
IMUL fits its signed 8-bit field, and the pair `S = 1, C = 1` of CSWAP and CMOV is reserved. Register and ROM indices
are 4 bits by their type. -/

namespace Sys2Proof

/-- The scalar of IMUL lies in -128 to 127 (30_encoding.md R103). -/
def scalarFits (k : Int) : Bool := decide (-128 ≤ k) && decide (k ≤ 127)

/-- The fields `S` and `C` of CSWAP and CMOV are not both 1 (30_encoding.md R103, R106). -/
def conditionAllowed (sel c : Bool) : Bool := !(sel && c)

/-- A command that some legal word encodes (30_encoding.md R103, R106). -/
def Instr.wellFormed : Instr → Bool
  | .nop => true
  | .zero _ => true
  | .one _ => true
  | .copy _ _ => true
  | .ldc _ _ => true
  | .tores _ _ => true
  | .fromres _ _ => true
  | .rdd _ _ _ => true
  | .add _ _ _ => true
  | .sub _ _ _ => true
  | .neg _ _ => true
  | .mul _ _ _ => true
  | .sqr _ _ => true
  | .imul _ _ k => scalarFits k
  | .half _ _ => true
  | .fred _ _ => true
  | .pow _ _ _ => true
  | .inv _ _ => true
  | .sqrt _ _ => true
  | .qr _ => true
  | .isz _ => true
  | .equ _ _ => true
  | .cswap _ _ sel c => conditionAllowed sel c
  | .cmov _ _ sel c => conditionAllowed sel c

end Sys2Proof
end

