-- ==== Sys2Proof/Decode.lean ====
section
/-! DEFINITION. Reading a command word and writing one (30_encoding.md). Every command is one 32-bit word (R100)
with the fields of R101; the decoder is total on all words (R107) and names the reason it refuses one (R106), and the
encoder writes the word of a well-formed command from the same table. -/

namespace Sys2Proof

/-- The nine formats (30_encoding.md R102). -/
inductive Format where
  | n
  | d
  | da
  | dab
  | dk
  | dai
  | a
  | ab
  | dac
deriving DecidableEq, Repr

/-- The opcodes of 30_encoding.md R105, one per mnemonic. -/
inductive Opcode where
  | nop
  | zero
  | one
  | copy
  | ldc
  | tores
  | fromres
  | rdd
  | add
  | sub
  | neg
  | mul
  | sqr
  | imul
  | half
  | fred
  | pow
  | inv
  | sqrt
  | qr
  | isz
  | equ
  | cswap
  | cmov
deriving DecidableEq, Repr

/-- One row of the opcode map (30_encoding.md R105). -/
structure OpcodeRow where
  /-- The OP field, bits 31 to 26. -/
  op : BitVec 6
  /-- The format, which says which fields the row uses (R102). -/
  format : Format
  /-- `match`: the word with every field 0. -/
  pattern : Word
  /-- `mask`: the opcode bits and the must-be-zero bits. -/
  mask : Word
deriving DecidableEq, Repr

/-- The opcode map, row by row (30_encoding.md R105). -/
def Opcode.row : Opcode → OpcodeRow
  | .nop => ⟨0x00, .n, 0x00000000, 0xFFFFFFFF⟩
  | .zero => ⟨0x01, .d, 0x04000000, 0xFC3FFFFF⟩
  | .one => ⟨0x02, .d, 0x08000000, 0xFC3FFFFF⟩
  | .copy => ⟨0x03, .da, 0x0C000000, 0xFC03FFFF⟩
  | .ldc => ⟨0x04, .dk, 0x10000000, 0xFC3FFFF0⟩
  | .tores => ⟨0x05, .da, 0x14000000, 0xFC03FFFF⟩
  | .fromres => ⟨0x06, .da, 0x18000000, 0xFC03FFFF⟩
  | .rdd => ⟨0x07, .dab, 0x1C000000, 0xFC003FFF⟩
  | .add => ⟨0x08, .dab, 0x20000000, 0xFC003FFF⟩
  | .sub => ⟨0x09, .dab, 0x24000000, 0xFC003FFF⟩
  | .neg => ⟨0x0A, .da, 0x28000000, 0xFC03FFFF⟩
  | .mul => ⟨0x0B, .dab, 0x2C000000, 0xFC003FFF⟩
  | .sqr => ⟨0x0C, .da, 0x30000000, 0xFC03FFFF⟩
  | .imul => ⟨0x0D, .dai, 0x34000000, 0xFC03FF00⟩
  | .half => ⟨0x0E, .da, 0x38000000, 0xFC03FFFF⟩
  | .fred => ⟨0x0F, .da, 0x3C000000, 0xFC03FFFF⟩
  | .pow => ⟨0x10, .dab, 0x40000000, 0xFC003FFF⟩
  | .inv => ⟨0x11, .da, 0x44000000, 0xFC03FFFF⟩
  | .sqrt => ⟨0x12, .da, 0x48000000, 0xFC03FFFF⟩
  | .qr => ⟨0x13, .a, 0x4C000000, 0xFFC3FFFF⟩
  | .isz => ⟨0x14, .a, 0x50000000, 0xFFC3FFFF⟩
  | .equ => ⟨0x15, .ab, 0x54000000, 0xFFC03FFF⟩
  | .cswap => ⟨0x16, .dac, 0x58000000, 0xFC03FFFC⟩
  | .cmov => ⟨0x17, .dac, 0x5C000000, 0xFC03FFFC⟩

/-- The opcode that an OP field names; the 40 values from 0x18 on are reserved (30_encoding.md R105, R106). -/
def opcodeOfField (op : Nat) : Option Opcode :=
  match op with
  | 0x00 => some .nop
  | 0x01 => some .zero
  | 0x02 => some .one
  | 0x03 => some .copy
  | 0x04 => some .ldc
  | 0x05 => some .tores
  | 0x06 => some .fromres
  | 0x07 => some .rdd
  | 0x08 => some .add
  | 0x09 => some .sub
  | 0x0A => some .neg
  | 0x0B => some .mul
  | 0x0C => some .sqr
  | 0x0D => some .imul
  | 0x0E => some .half
  | 0x0F => some .fred
  | 0x10 => some .pow
  | 0x11 => some .inv
  | 0x12 => some .sqrt
  | 0x13 => some .qr
  | 0x14 => some .isz
  | 0x15 => some .equ
  | 0x16 => some .cswap
  | 0x17 => some .cmov
  | _ => none

/-- The bits of a word that a format requires to be 0 (30_encoding.md R102). -/
def Format.mustBeZero : Format → Word
  | .n => 0x03FFFFFF
  | .d => 0x003FFFFF
  | .da => 0x0003FFFF
  | .dab => 0x00003FFF
  | .dk => 0x003FFFF0
  | .dai => 0x0003FF00
  | .a => 0x03C3FFFF
  | .ab => 0x03C03FFF
  | .dac => 0x0003FFFC

/-- Field OP, bits 31 to 26 (30_encoding.md R101). -/
def fieldOp (w : Word) : Nat := (w.extractLsb' 26 6).toNat

/-- Field D, bits 25 to 22 (30_encoding.md R101). -/
def fieldD (w : Word) : Fin 16 := ⟨(w.extractLsb' 22 4).toNat, (w.extractLsb' 22 4).isLt⟩

/-- Field A, bits 21 to 18 (30_encoding.md R101). -/
def fieldA (w : Word) : Fin 16 := ⟨(w.extractLsb' 18 4).toNat, (w.extractLsb' 18 4).isLt⟩

/-- Field B, bits 17 to 14 (30_encoding.md R101). -/
def fieldB (w : Word) : Fin 16 := ⟨(w.extractLsb' 14 4).toNat, (w.extractLsb' 14 4).isLt⟩

/-- Subfield `K = w[3:0]` (30_encoding.md R103). -/
def fieldK (w : Word) : Fin 16 := ⟨(w.extractLsb' 0 4).toNat, (w.extractLsb' 0 4).isLt⟩

/-- The scalar `k = sext_8(w[7:0])` (30_encoding.md R103, 00_scope.md R12). -/
def fieldScalar (w : Word) : Int := (w.extractLsb' 0 8).toInt

/-- Subfield `S = w[1]` (30_encoding.md R103). -/
def fieldS (w : Word) : Bool := w.getLsbD 1

/-- Subfield `C = w[0]` (30_encoding.md R103). -/
def fieldC (w : Word) : Bool := w.getLsbD 0

/-- The command an opcode forms from the fields of a word that passed the tests of 30_encoding.md R107, with the
operand kinds of R104. -/
def Opcode.build (o : Opcode) (w : Word) : Instr :=
  match o with
  | .nop => .nop
  | .zero => .zero (fieldD w)
  | .one => .one (fieldD w)
  | .copy => .copy (fieldD w) (fieldA w)
  | .ldc => .ldc (fieldD w) (fieldK w)
  | .tores => .tores (fieldD w) (fieldA w)
  | .fromres => .fromres (fieldD w) (fieldA w)
  | .rdd => .rdd (fieldD w) (fieldA w) (fieldB w)
  | .add => .add (fieldD w) (fieldA w) (fieldB w)
  | .sub => .sub (fieldD w) (fieldA w) (fieldB w)
  | .neg => .neg (fieldD w) (fieldA w)
  | .mul => .mul (fieldD w) (fieldA w) (fieldB w)
  | .sqr => .sqr (fieldD w) (fieldA w)
  | .imul => .imul (fieldD w) (fieldA w) (fieldScalar w)
  | .half => .half (fieldD w) (fieldA w)
  | .fred => .fred (fieldD w) (fieldA w)
  | .pow => .pow (fieldD w) (fieldA w) (fieldB w)
  | .inv => .inv (fieldD w) (fieldA w)
  | .sqrt => .sqrt (fieldD w) (fieldA w)
  | .qr => .qr (fieldA w)
  | .isz => .isz (fieldA w)
  | .equ => .equ (fieldA w) (fieldB w)
  | .cswap => .cswap (fieldD w) (fieldA w) (fieldS w) (fieldC w)
  | .cmov => .cmov (fieldD w) (fieldA w) (fieldS w) (fieldC w)

/-- Why a word is illegal: the three cases of 30_encoding.md R106. -/
inductive Illegal where
  /-- Its OP is 0x18 to 0x3F. -/
  | reservedOpcode
  /-- A bit its format requires to be 0 is 1. -/
  | mustBeZeroBit
  /-- It is a CSWAP or CMOV with `S = 1` and `C = 1`. -/
  | reservedCondition
deriving DecidableEq, Repr

/-- Decoding, total on all words (30_encoding.md R107). -/
def decode (w : Word) : Except Illegal Instr :=
  match opcodeOfField (fieldOp w) with
  | none => .error .reservedOpcode
  | some o =>
    if w &&& o.row.mask ≠ o.row.pattern then .error .mustBeZeroBit
    else if (o = .cswap ∨ o = .cmov) ∧ w.extractLsb' 0 2 = 3 then .error .reservedCondition
    else .ok (o.build w)

/-- The instruction the decoder reads from an opcode-table row's bits: a command is one 32-bit word (R100), whose
bits the table numbers as R101 does. -/
def decodeTableWord (nbits w : Nat) : Option Instr :=
  (decode (BitVec.ofNat 32 (w % 2 ^ nbits))).toOption

/-- The opcode of a command (30_encoding.md R105). -/
def Instr.opcode : Instr → Opcode
  | .nop => .nop
  | .zero _ => .zero
  | .one _ => .one
  | .copy _ _ => .copy
  | .ldc _ _ => .ldc
  | .tores _ _ => .tores
  | .fromres _ _ => .fromres
  | .rdd _ _ _ => .rdd
  | .add _ _ _ => .add
  | .sub _ _ _ => .sub
  | .neg _ _ => .neg
  | .mul _ _ _ => .mul
  | .sqr _ _ => .sqr
  | .imul _ _ _ => .imul
  | .half _ _ => .half
  | .fred _ _ => .fred
  | .pow _ _ _ => .pow
  | .inv _ _ => .inv
  | .sqrt _ _ => .sqrt
  | .qr _ => .qr
  | .isz _ => .isz
  | .equ _ _ => .equ
  | .cswap _ _ _ _ => .cswap
  | .cmov _ _ _ _ => .cmov

/-- A word laid out from its five fields (30_encoding.md R101). -/
def wordOfFields (op : BitVec 6) (d a b : BitVec 4) (imm : BitVec 14) : Word := op ++ d ++ a ++ b ++ imm

/-- A register or ROM index as a 4-bit field. -/
def indexBits (i : Fin 16) : BitVec 4 := BitVec.ofNat 4 i.val

/-- `I8 = k mod 256` in the immediate field (30_encoding.md R103, R109). -/
def scalarImm (k : Int) : BitVec 14 := (BitVec.ofInt 8 k).setWidth 14

/-- `S` and `C` in the immediate field (30_encoding.md R103). -/
def conditionImm (sel c : Bool) : BitVec 14 := (BitVec.ofBool sel ++ BitVec.ofBool c).setWidth 14

/-- The immediate field of a command (30_encoding.md R103): 0 in the formats that use none. -/
def Instr.imm : Instr → BitVec 14
  | .nop => 0
  | .zero _ => 0
  | .one _ => 0
  | .copy _ _ => 0
  | .ldc _ k => (indexBits k).setWidth 14
  | .tores _ _ => 0
  | .fromres _ _ => 0
  | .rdd _ _ _ => 0
  | .add _ _ _ => 0
  | .sub _ _ _ => 0
  | .neg _ _ => 0
  | .mul _ _ _ => 0
  | .sqr _ _ => 0
  | .imul _ _ k => scalarImm k
  | .half _ _ => 0
  | .fred _ _ => 0
  | .pow _ _ _ => 0
  | .inv _ _ => 0
  | .sqrt _ _ => 0
  | .qr _ => 0
  | .isz _ => 0
  | .equ _ _ => 0
  | .cswap _ _ sel c => conditionImm sel c
  | .cmov _ _ sel c => conditionImm sel c

/-- Field D of a command: 0 in the formats that do not use it (30_encoding.md R102, R104). -/
def Instr.bitsD : Instr → BitVec 4
  | .nop => 0
  | .zero r => indexBits r
  | .one r => indexBits r
  | .copy r _ => indexBits r
  | .ldc r _ => indexBits r
  | .tores r _ => indexBits r
  | .fromres r _ => indexBits r
  | .rdd r _ _ => indexBits r
  | .add r _ _ => indexBits r
  | .sub r _ _ => indexBits r
  | .neg r _ => indexBits r
  | .mul r _ _ => indexBits r
  | .sqr r _ => indexBits r
  | .imul r _ _ => indexBits r
  | .half r _ => indexBits r
  | .fred r _ => indexBits r
  | .pow r _ _ => indexBits r
  | .inv r _ => indexBits r
  | .sqrt r _ => indexBits r
  | .qr _ => 0
  | .isz _ => 0
  | .equ _ _ => 0
  | .cswap r _ _ _ => indexBits r
  | .cmov r _ _ _ => indexBits r

/-- Field A of a command: 0 in the formats that do not use it (30_encoding.md R102, R104). -/
def Instr.bitsA : Instr → BitVec 4
  | .nop => 0
  | .zero _ => 0
  | .one _ => 0
  | .copy _ r => indexBits r
  | .ldc _ _ => 0
  | .tores _ r => indexBits r
  | .fromres _ r => indexBits r
  | .rdd _ r _ => indexBits r
  | .add _ r _ => indexBits r
  | .sub _ r _ => indexBits r
  | .neg _ r => indexBits r
  | .mul _ r _ => indexBits r
  | .sqr _ r => indexBits r
  | .imul _ r _ => indexBits r
  | .half _ r => indexBits r
  | .fred _ r => indexBits r
  | .pow _ r _ => indexBits r
  | .inv _ r => indexBits r
  | .sqrt _ r => indexBits r
  | .qr r => indexBits r
  | .isz r => indexBits r
  | .equ r _ => indexBits r
  | .cswap _ r _ _ => indexBits r
  | .cmov _ r _ _ => indexBits r

/-- Field B of a command: 0 in the formats that do not use it (30_encoding.md R102, R104). -/
def Instr.bitsB : Instr → BitVec 4
  | .nop => 0
  | .zero _ => 0
  | .one _ => 0
  | .copy _ _ => 0
  | .ldc _ _ => 0
  | .tores _ _ => 0
  | .fromres _ _ => 0
  | .rdd _ _ r => indexBits r
  | .add _ _ r => indexBits r
  | .sub _ _ r => indexBits r
  | .neg _ _ => 0
  | .mul _ _ r => indexBits r
  | .sqr _ _ => 0
  | .imul _ _ _ => 0
  | .half _ _ => 0
  | .fred _ _ => 0
  | .pow _ _ r => indexBits r
  | .inv _ _ => 0
  | .sqrt _ _ => 0
  | .qr _ => 0
  | .isz _ => 0
  | .equ _ r => indexBits r
  | .cswap _ _ _ _ => 0
  | .cmov _ _ _ _ => 0

/-- The word of a command, from the encoding tables of 30_encoding.md R101 to R105. A command is one word, so the
words of an instruction are this one. -/
def encode (i : Instr) : Word := wordOfFields i.opcode.row.op i.bitsD i.bitsA i.bitsB i.imm

end Sys2Proof
end

