-- ==== Sys2Proof/Config.lean ====
section
/-! DEFINITION. The build: the configuration record `Cfg` (00_scope.md R8), the default and the test profiles
(R10, 92_eei_decisions.md D3), and the one value the spec leaves open within a build, the representative a
generalized-Mersenne reduction returns (41_reduction.md R153). What is computed from a build stands in
Sys2Proof/Machine/Build.lean. -/

namespace Sys2Proof

/-- The four build-time variants (00_scope.md R3): pseudo-Mersenne, generalized Mersenne, Montgomery-friendly,
general Montgomery. -/
inductive Shape where
  | pm
  | gm
  | mf
  | gen
deriving DecidableEq, Repr

/-- The configuration record of a build (00_scope.md R8), under the field names of its table in lower case. The
table's `GW`, `R` and `R2` are computed from these fields (Machine/Build.lean). `GM_REDUCE` is a function and so no
field of plain data: it is `Config.gmAddsP` below, a free choice within the contract of R153. -/
structure Cfg where
  /-- `P`: the prime modulus. -/
  p : Nat
  /-- `NBITS`: the bit length of `p`. -/
  nbits : Nat
  /-- `MOD8`: `p mod 8`. -/
  mod8 : Nat
  /-- `SHAPE`: the reduction variant. -/
  shape : Shape
  /-- `W`: the digit width in bits. -/
  w : Nat
  /-- `N`: the digit count of a single-width integer. -/
  n : Nat
  /-- `CAP`: the capacity constant that bounds every excess. -/
  cap : Nat
  /-- `C`: PM only, `p = 2^n - C`. -/
  c : Nat
  /-- `MCONST`: the Montgomery constant of the shape. -/
  mconst : Nat
  /-- `CROM[0..15]`: the canonical constants of LDC. -/
  crom : Vector Nat 16
  /-- `FIFO_DEPTH`: the depth of the command FIFO. -/
  fifoDepth : Nat
deriving DecidableEq, Repr

/-- FREE VALUE (DESIGN CHOICE, notes/assumptions/3.md). Which of the two representatives `d mod p` and
`d mod p + p` the `GM_REDUCE` of a generalized-Mersenne build returns for `d`: `true` for the second. The contract of
41_reduction.md R153 admits exactly these two for `d <= CAP*p^2`, and "a proof about a GM build may rely on the
contract only": no body, so that nothing can be proved of the choice. -/
opaque Config.gmAddsP : Cfg → Nat → Bool

/-- A constant ROM with every entry 0, the ROM of every profile (00_scope.md R10, 92_eei_decisions.md D3). -/
def Config.zeroCrom : Vector Nat 16 := Vector.replicate 16 0

/-- The default profile `BLS381` (00_scope.md R10), the build of `State.reset`. -/
def Config.bls381 : Cfg where
  p := 0x1a0111ea397fe69a4b1ba7b6434bacd764774b84f38512bf6730d2a0f6b0f6241eabfffeb153ffffb9feffffffffaaab
  nbits := 381
  mod8 := 3
  shape := .gen
  w := 58
  n := 7
  cap := 2 ^ 25
  c := 0
  mconst := 0x1f3fffcfffcfffd
  crom := Config.zeroCrom
  fifoDepth := 4

/-- The test profile `PM127` (92_eei_decisions.md D3). -/
def Config.pm127 : Cfg where
  p := 2 ^ 127 - 1
  nbits := 127
  mod8 := 7
  shape := .pm
  w := 32
  n := 5
  cap := 2 ^ 16
  c := 1
  mconst := 1
  crom := Config.zeroCrom
  fifoDepth := 4

/-- The test profile `GEN7` (92_eei_decisions.md D3). -/
def Config.gen7 : Cfg where
  p := 1000000007
  nbits := 30
  mod8 := 7
  shape := .gen
  w := 16
  n := 2
  cap := 4
  c := 0
  mconst := 0x7C49
  crom := Config.zeroCrom
  fifoDepth := 4

/-- The test profile `GEN5` (92_eei_decisions.md D3). -/
def Config.gen5 : Cfg :=
  { Config.gen7 with p := 1000000021, mod8 := 5, mconst := 0x4AC3 }

/-- The test profile `GEN1` (92_eei_decisions.md D3). -/
def Config.gen1 : Cfg :=
  { Config.gen7 with p := 1000000009, mod8 := 1, mconst := 0x1BC7 }

/-- The test profile `MF12` (92_eei_decisions.md D3). -/
def Config.mf12 : Cfg where
  p := 786431
  nbits := 20
  mod8 := 7
  shape := .mf
  w := 16
  n := 2
  cap := 4096
  c := 0
  mconst := 12
  crom := Config.zeroCrom
  fifoDepth := 4

/-- The test profile `GM448` (92_eei_decisions.md D3). -/
def Config.gm448 : Cfg where
  p := 2 ^ 448 - 2 ^ 224 - 1
  nbits := 448
  mod8 := 7
  shape := .gm
  w := 56
  n := 9
  cap := 2 ^ 28
  c := 0
  mconst := 0
  crom := Config.zeroCrom
  fifoDepth := 4

end Sys2Proof
end

