-- ==== Sys2Proof/Machine/Build.lean ====
section
/-! DEFINITION. What is computed from a build: its widths and radix (00_scope.md R8), and whether it is one the model
runs (R9). -/

namespace Sys2Proof

/-- `SHAPE` as a number (00_scope.md R3). -/
def Shape.code : Shape → Nat
  | .pm => 0
  | .gm => 1
  | .mf => 2
  | .gen => 3

/-- The shape-based variants hold a field element as it is (00_scope.md R4). -/
def Shape.isShapeBased : Shape → Bool
  | .pm => true
  | .gm => true
  | .mf => false
  | .gen => false

/-- `GW = N * W`, the width of a register value (00_scope.md R8). -/
def Cfg.gw (c : Cfg) : Nat := c.n * c.w

/-- `R = 2^GW`, the Montgomery radix (00_scope.md R8). -/
def Cfg.r (c : Cfg) : Nat := 2 ^ c.gw

/-- `R2 = R^2 mod p` (00_scope.md R8). -/
def Cfg.r2 (c : Cfg) : Nat := c.r * c.r % c.p

/-- `XW = ceil(GW / 32)`, the words of a `GW`-bit integer (20_memory.md R74). -/
def Cfg.xw (c : Cfg) : Nat := (c.gw + 31) / 32

/-- The moduli of the profiles of 00_scope.md R10 and 92_eei_decisions.md D3, all prime (shown in
Sys2Proof/Laws/Primes.lean); the primality test looks a modulus up here before it searches for a divisor. -/
def profileModuli : List Nat :=
  [Config.bls381.p, Config.pm127.p, Config.gen7.p, Config.gen5.p, Config.gen1.p, Config.mf12.p, Config.gm448.p]

/-- Whether a number is prime (00_scope.md R9 WF1). -/
def isPrime (p : Nat) : Bool := profileModuli.contains p || decide (Nat.Prime p)

/-- The ranges of 00_scope.md R8 that no condition of R9 repeats: the digit width, the digit count and the FIFO
depth. -/
def Cfg.rangesHold (c : Cfg) : Bool :=
  decide (1 ≤ c.w) && decide (c.w ≤ 64) && decide (1 ≤ c.n) && decide (1 ≤ c.fifoDepth) && decide (c.fifoDepth ≤ 255)

/-- WF1 of 00_scope.md R9: `P` is an odd prime above 128, `NBITS` its bit length and `MOD8` its residue. -/
def Cfg.wf1 (c : Cfg) : Bool :=
  decide (c.p % 2 = 1) && decide (128 < c.p) && decide (c.nbits = bitlength c.p) && decide (c.mod8 = c.p % 8) && isPrime c.p

/-- WF2 of 00_scope.md R9: `2 <= CAP < 2^32` and `CAP * P <= 2^GW`. -/
def Cfg.wf2 (c : Cfg) : Bool :=
  decide (2 ≤ c.cap) && decide (c.cap < 2 ^ 32) && decide (c.cap * c.p ≤ c.r)

/-- WF3 of 00_scope.md R9, for PM: `P = 2^NBITS - C`, `C >= 1` and `C*C*CAP + 2*C <= 2^NBITS`. -/
def Cfg.wf3 (c : Cfg) : Bool :=
  decide (c.p + c.c = 2 ^ c.nbits) && decide (1 ≤ c.c) && decide (c.c * c.c * c.cap + 2 * c.c ≤ 2 ^ c.nbits)

/-- WF4 of 00_scope.md R9, for MF: `P + 1 = MCONST * 2^(W*(N-1))` with `1 <= MCONST < 2^W`. -/
def Cfg.wf4 (c : Cfg) : Bool :=
  decide (c.p + 1 = c.mconst * 2 ^ (c.w * (c.n - 1))) && decide (1 ≤ c.mconst) && decide (c.mconst < 2 ^ c.w)

/-- `MCONST` of a GEN build: `(-p^-1) mod 2^W` (00_scope.md R8), the number below `2^W` whose product with `p` is
`-1` modulo `2^W`. -/
def Cfg.genConstHolds (c : Cfg) : Bool :=
  decide (c.mconst < 2 ^ c.w) && decide ((c.p * c.mconst + 1) % 2 ^ c.w = 0)

/-- The conditions a shape adds (00_scope.md R8, R9): WF3 and `MCONST = C` for PM, WF4 for MF, the value of `MCONST`
for GEN. WF5 holds of every GM build, since `GM_REDUCE` is drawn from the functions with the contract
(41_reduction.md R153). -/
def Cfg.shapeHolds (c : Cfg) : Bool :=
  match c.shape with
  | .pm => c.wf3 && decide (c.mconst = c.c)
  | .gm => true
  | .mf => c.wf4
  | .gen => c.genConstHolds

/-- WF6 of 00_scope.md R9: every ROM entry is canonical. -/
def Cfg.wf6 (c : Cfg) : Bool := c.crom.toList.all fun v => decide (v < c.p)

/-- WF7 of 00_scope.md R9: a register fits its 63-word window slot. -/
def Cfg.wf7 (c : Cfg) : Bool := decide (c.gw ≤ 2016)

/-- A build the model runs (00_scope.md R8, R9). -/
def Cfg.wellFormed (c : Cfg) : Bool :=
  c.rangesHold && c.wf1 && c.wf2 && c.shapeHolds && c.wf6 && c.wf7

end Sys2Proof
end

