-- ==== Sys2Proof/Machine/State.lean ====
section
/-! DEFINITION. The state of the machine (10_state.md): the build constants, the two register files, the flag T, the
command FIFO and the command in flight, the counter, the error record, the status and control bits; and, as plain data,
what the outside does to it (20_memory.md R70 to R73, 70_reset_and_hazards.md R320). INVENTORY.md lists every field
with its rule and its reset value. -/

namespace Sys2Proof.Machine

/-- A field element in residue form: the value `g` and the excess `e` (10_state.md R31, R32). -/
structure FElem where
  g : Nat
  e : Nat
deriving DecidableEq, Repr

/-- One register of the F file: the pair `(g, e)` and its valid bit (10_state.md R31, R41). -/
structure FReg where
  elem : FElem
  valid : Bool
deriving DecidableEq, Repr

/-- One register of the X file: its `GW`-bit integer and its valid bit (10_state.md R39, R41). -/
structure XReg where
  value : Nat
  valid : Bool
deriving DecidableEq, Repr

/-- A register of either file, as the operand record of an error names it (60_exceptions.md R280). -/
inductive RegName where
  | f (i : FIdx)
  | x (i : XIdx)
deriving DecidableEq, Repr

/-- The values the 4-bit field ECODE ever reports (60_exceptions.md R280). -/
inductive ErrCode where
  | none
  | illegal
  | uninit
  | range
  | sqrtUnsup
deriving DecidableEq, Repr

/-- The error state (10_state.md R48): `ERR`, `ECODE`, the operand record, `ERRCMD` and `ERRIDX`. -/
structure ErrorState where
  err : Bool
  ecode : ErrCode
  opvalid : Bool
  opfile : Bool
  opidx : Fin 16
  errcmd : Word
  erridx : BitVec 32
deriving DecidableEq, Repr

/-- The error state while `ERR = 0`: every field 0 (10_state.md R65, 60_exceptions.md R288). -/
def ErrorState.clear : ErrorState := ⟨false, .none, false, false, 0, 0, 0⟩

/-- The size of a host access (20_memory.md R71, R72). -/
inductive AccessSize where
  | bits8
  | bits16
  | bits32
  | bits64
deriving DecidableEq, Repr

/-- One host access on the target port: its byte offset `addr[13:0]`, its size and, for a write, `wdata`
(20_memory.md R71). -/
inductive Access where
  | read (addr : BitVec 14) (size : AccessSize)
  | write (addr : BitVec 14) (size : AccessSize) (data : Word)
deriving DecidableEq, Repr

/-- What moves next (10_state.md R30, notes/assumptions/4.md): the engine, one access of the host, or a change of the
level of the reset pin `rst_n` (70_reset_and_hazards.md R320). -/
inductive Turn where
  | engine
  | host (a : Access)
  | resetPin (level : Bool)
deriving DecidableEq, Repr

/-- The state of the FPE. Plain data: it can be compared and written out. -/
structure State where
  /-- The build `Cfg`, "constant state" of the block (10_state.md R43): no step changes it. -/
  cfg : Cfg
  /-- The F file (10_state.md R31). -/
  f : Vector FReg 16
  /-- The X file (10_state.md R39). -/
  x : Vector XReg 16
  /-- The test flag `T` (10_state.md R42). -/
  tFlag : Bool
  /-- The command FIFO, oldest word first (10_state.md R44). -/
  fifo : List Word
  /-- The word the engine has taken from the FIFO and not yet completed: `some` iff `BUSY = 1` (10_state.md R45). -/
  inflight : Option Word
  /-- `CMDCNT` (10_state.md R46, R59). -/
  cmdcnt : BitVec 32
  /-- The error state (10_state.md R48, R56 to R58). -/
  error : ErrorState
  /-- `STATUS.DONE` (10_state.md R55). -/
  done : Bool
  /-- `STATUS.OVF` (10_state.md R55). -/
  ovf : Bool
  /-- `STATUS.CMDDROP` (10_state.md R55). -/
  cmddrop : Bool
  /-- `STATUS.ACCERR` (10_state.md R55). -/
  accerr : Bool
  /-- `CTRL.IE_DONE` (10_state.md R54). -/
  ieDone : Bool
  /-- `CTRL.IE_ERR` (10_state.md R54). -/
  ieErr : Bool
  /-- The level of the reset input `rst_n`; `false` while the block is in reset (70_reset_and_hazards.md R320). -/
  rstN : Bool
  /-- The read data the last host access returned on `rdata`; `none` for a write and for an access that was not
  answered (20_memory.md R71, R79; notes/assumptions/5.md). -/
  reply : Option Word
  /-- The turns still to come, in order; the engine moves when none is left (notes/assumptions/4.md). -/
  turns : List Turn
deriving DecidableEq, Repr

/-- The machine stops with a fault: never. Every error of the FPE is an error entry the machine takes and goes on from
(60_exceptions.md R283, R287), and every host access has a defined effect (20_memory.md R79), so no constructor is
needed; a fault on any path would be unsafe to add without a rule that names it. -/
inductive Fault where
deriving DecidableEq, Repr

/-- Why a step has no next state. -/
inductive Refusal where
  /-- `exec` raises it for an instruction that has no meaning yet, by its mnemonic; no arm does. Safe: nothing can be
  proved of a next state that is not given. -/
  | notModelled (mnemonic : String)
  /-- `step` raises it for a build that breaks 00_scope.md R9: "a configuration that fails one is refused, not run"
  (93_implementation_defined.md I23). Safe: no behaviour is claimed of such a build. -/
  | illFormedBuild
deriving DecidableEq, Repr

/-- An F register after reset: value, excess and valid bit 0 (10_state.md R65). -/
def FReg.reset : FReg := ⟨⟨0, 0⟩, false⟩

/-- An X register after reset: value and valid bit 0 (10_state.md R65). -/
def XReg.reset : XReg := ⟨0, false⟩

/-- The machine of a build right after reset (10_state.md R65), with `rst_n` released and no turn scheduled. -/
def State.resetOf (cfg : Cfg) : State where
  cfg := cfg
  f := Vector.replicate 16 FReg.reset
  x := Vector.replicate 16 XReg.reset
  tFlag := false
  fifo := []
  inflight := none
  cmdcnt := 0
  error := ErrorState.clear
  done := false
  ovf := false
  cmddrop := false
  accerr := false
  ieDone := false
  ieErr := false
  rstN := true
  reply := none
  turns := []

/-- The machine right after reset, in the default build `BLS381` (10_state.md R65, 00_scope.md R10). -/
def State.reset : State := State.resetOf Config.bls381

end Sys2Proof.Machine
end

