-- ==== Sys2Proof/Machine/Field.lean ====
section
/-! DEFINITION. The helper functions every command family uses (00_scope.md R14): the least power of two, modular
powers, the inverse of the radix, and the two readings of a register value, `val` and `rep` (10_state.md R36, R37). -/

namespace Sys2Proof.Machine

/-- `nextpow2(e)`: the least power of two `k` with `k >= e` (00_scope.md R14). -/
def nextpow2 (e : Nat) : Nat := 2 ^ bitlength (e - 1)

/-- `b ^ n mod m` for an exponent of at most `fuel` bits, by repeated squaring from the low bit. -/
def powModFuel (m : Nat) : Nat → Nat → Nat → Nat
  | 0, _, _ => 1 % m
  | fuel + 1, b, n =>
    let rest := powModFuel m fuel (b * b % m) (n / 2)
    if n % 2 = 1 then b * rest % m else rest

/-- `b ^ n mod m`, on integers. -/
def powMod (b n m : Nat) : Nat := powModFuel m (bitlength n) (b % m) n

/-- `Rinv`: the inverse of `R` modulo `p` (10_state.md R36), as `R^(p-2) mod p` for the prime `p`
(93_implementation_defined.md G4). -/
def rInv (c : Cfg) : Nat := powMod c.r (c.p - 2) c.p

/-- `val(g)`: the field value a register value represents (10_state.md R36). -/
def val (c : Cfg) (g : Nat) : Nat :=
  if c.shape.isShapeBased then g % c.p else g * rInv c % c.p

/-- `rep(v)`: the canonical register value of a field value (10_state.md R37). -/
def rep (c : Cfg) (v : Nat) : Nat :=
  if c.shape.isShapeBased then v % c.p else v * c.r % c.p

/-- The multiplicative identity `(rep(1), 1)` (45_utility.md R268, 43_exponent.md R221). -/
def oneElem (c : Cfg) : FElem := ⟨rep c 1, 1⟩

/-- The zero element `(0, 1)` (45_utility.md R266). -/
def zeroElem : FElem := ⟨0, 1⟩

/-- `fred((g, e)) = (g mod p, 1)`: full reduction (42_arith.md R190). -/
def fullReduce (c : Cfg) (a : FElem) : FElem := ⟨a.g % c.p, 1⟩

/-- A register value is canonical when `g < p` and `e = 1` (10_state.md R35). -/
def FElem.canonical (c : Cfg) (a : FElem) : Bool := decide (a.g < c.p) && decide (a.e = 1)

/-- The excess invariant of a field element: `1 <= e <= CAP` and `g <= e * p` (10_state.md R33). -/
def FElem.bounded (c : Cfg) (a : FElem) : Bool :=
  decide (1 ≤ a.e) && decide (a.e ≤ c.cap) && decide (a.g ≤ a.e * c.p)

end Sys2Proof.Machine
end

