-- ==== Sys2Proof/Machine/Reduction.lean ====
section
/-! DEFINITION. The reduction engine (41_reduction.md): the algorithm of each variant as a function of the integer
`d`, and the dispatch on the build's shape. -/

namespace Sys2Proof.Machine

/-- `digit_i(v) = v[W*i + W - 1 : W*i]` (41_reduction.md, notation). -/
def digit (c : Cfg) (i v : Nat) : Nat := v / 2 ^ (c.w * i) % 2 ^ c.w

/-- One fold at bit `NBITS`: the low part plus `C` times the high part (41_reduction.md R151). -/
def pmFold (c : Cfg) (d : Nat) : Nat := d % 2 ^ c.nbits + c.c * (d / 2 ^ c.nbits)

/-- `PM_REDUCE`: the fold and its correction pass (41_reduction.md R151). -/
def pmReduce (c : Cfg) (d : Nat) : Nat := pmFold c (pmFold c d)

/-- `GM_REDUCE` (41_reduction.md R153): either of the two values below `2p` that are congruent to `d`, by the free
choice `Config.gmAddsP` of the build (notes/assumptions/3.md). -/
def gmReduce (c : Cfg) (d : Nat) : Nat :=
  if Config.gmAddsP c d then d % c.p + c.p else d % c.p

/-- The inverse of the odd number `p` modulo `r`, a power of two, after some doublings of the number of correct low
bits. -/
def invPow2 (p r : Nat) : Nat → Nat
  | 0 => 1
  | k + 1 =>
    let x := invPow2 p r k
    x * (2 + r - p * x % r) % r

/-- `p^-1 mod R` (41_reduction.md R156): eleven doublings reach every width `GW <= 2016` of a build. -/
def pInvR (c : Cfg) : Nat := invPow2 c.p c.r 11

/-- `MONT(d) = (d + m * p) / R` with `m = (-d * p^-1) mod R`: the closed form of both Montgomery variants
(41_reduction.md R156). -/
def mont (c : Cfg) (d : Nat) : Nat :=
  let m := (c.r - d * pInvR c % c.r) % c.r
  (d + m * c.p) / c.r

/-- The loop of `MF_REDUCE` over digits `i, i+1, …`, for as many digits as the first number says
(41_reduction.md R154). -/
def mfDigits (c : Cfg) : Nat → Nat → Nat → Nat
  | 0, _, acc => acc
  | k + 1, i, acc => mfDigits c k (i + 1) (acc + digit c i acc * c.mconst * 2 ^ (c.w * (i + c.n - 1)))

/-- The digit-serial form of the Montgomery-friendly reduction (41_reduction.md R154). -/
def mfDigitSerial (c : Cfg) (d : Nat) : Nat := mfDigits c c.n 0 d / c.r

/-- `MF_REDUCE`, which a model implements as `MONT` (41_reduction.md R154, 92_eei_decisions.md D37). -/
def mfReduce (c : Cfg) (d : Nat) : Nat := mont c d

/-- The loop of `GEN_REDUCE` over digits `i, i+1, …`: each step clears digit `i` (41_reduction.md R155). -/
def genDigits (c : Cfg) : Nat → Nat → Nat → Nat
  | 0, _, acc => acc
  | k + 1, i, acc =>
    let m := digit c i acc * c.mconst % 2 ^ c.w
    genDigits c k (i + 1) (acc + m * c.p * 2 ^ (c.w * i))

/-- `GEN_REDUCE`: the digit loop and the high half, with no final subtraction (41_reduction.md R155). -/
def genReduce (c : Cfg) (d : Nat) : Nat := genDigits c c.n 0 d / c.r

/-- `REDUCE(d)`, selected by the build's shape (41_reduction.md R150). -/
def reduce (c : Cfg) (d : Nat) : Nat :=
  match c.shape with
  | .pm => pmReduce c d
  | .gm => gmReduce c d
  | .mf => mfReduce c d
  | .gen => genReduce c d

/-- The largest `d` of the reduction contract, `CAP * p^2` (41_reduction.md R152, R157). -/
def reduceBound (c : Cfg) : Nat := c.cap * (c.p * c.p)

end Sys2Proof.Machine
end

