-- ==== Sys2Proof/Machine/Arithmetic.lean ====
section
/-! DEFINITION. The operations of the engine as functions on register values `(g, e)`: residue conversion
(40_residue.md), arithmetic with its excess accounting (42_arith.md), exponentiation (43_exponent.md), inversion and
square root (44_inv_sqrt.md). All integers are exact (42_arith.md R170). -/

namespace Sys2Proof.Machine

/-- `tores(x)` (40_residue.md R130). -/
def toResidue (c : Cfg) (x : Nat) : FElem :=
  if c.shape.isShapeBased then ⟨x, 1⟩ else ⟨reduce c (x * c.r2), 2⟩

/-- `fromres((g, e))` (40_residue.md R132). -/
def fromResidue (c : Cfg) (a : FElem) : Nat :=
  if c.shape.isShapeBased then a.g else reduce c a.g

/-- A sum or negation `(g, e)`, fully reduced when `e` is over capacity (42_arith.md R170). -/
def capped (c : Cfg) (a : FElem) : FElem := if a.e > c.cap then ⟨a.g % c.p, 1⟩ else a

/-- `add(a, b)` (42_arith.md R171). -/
def addElem (c : Cfg) (a b : FElem) : FElem := capped c ⟨a.g + b.g, a.e + b.e⟩

/-- `neg(a)`: `k*p - g` with `k = nextpow2(e)` (42_arith.md R175). -/
def negElem (c : Cfg) (a : FElem) : FElem :=
  let k := nextpow2 a.e
  capped c ⟨k * c.p - a.g, k⟩

/-- `sub(a, b) = add(a, neg(b))` (42_arith.md R178). -/
def subElem (c : Cfg) (a b : FElem) : FElem := addElem c a (negElem c b)

/-- `mul(a, b)`: invariant I1 reduces a copy of operand A when the excesses multiply past the capacity
(42_arith.md R181, 10_state.md R34). -/
def mulElem (c : Cfg) (a b : FElem) : FElem :=
  let ga := if a.e * b.e > c.cap then a.g % c.p else a.g
  ⟨reduce c (ga * b.g), 2⟩

/-- `sqr(a)`: when invariant I1 fails, both factors are the reduced value (42_arith.md R186). -/
def sqrElem (c : Cfg) (a : FElem) : FElem :=
  let g := if a.e * a.e > c.cap then a.g % c.p else a.g
  ⟨reduce c (g * g), 2⟩

/-- `imul((g, e), k)` before the sign of `k` is applied, for `m = |k|` (42_arith.md R199). -/
def imulMagnitude (c : Cfg) (a : FElem) (m : Nat) : FElem :=
  if c.shape.isShapeBased then ⟨reduce c (a.g * m), 2⟩
  else if a.e * m ≤ c.cap then ⟨a.g * m, max 1 (a.e * m)⟩
  else mulElem c a (toResidue c m)

/-- `imul((g, e), k)`: the document's scalar multiplication (42_arith.md R199). -/
def imulElem (c : Cfg) (a : FElem) (k : Int) : FElem :=
  let r := imulMagnitude c a k.natAbs
  if k < 0 then negElem c r else r

/-- `half((g, e))` (42_arith.md R203). -/
def halfElem (c : Cfg) (a : FElem) : FElem :=
  if a.g % 2 = 0 then ⟨a.g / 2, a.e⟩ else ⟨(a.g + c.p) / 2, a.e⟩

/-- `nb = ceil(bitlength(n) / 4) + 1`, the window count (43_exponent.md R220). -/
def windowCount (n : Nat) : Nat := (bitlength n + 3) / 4 + 1

/-- `w[i] = (n >> (4*i)) mod 16` (43_exponent.md R220). -/
def window (n i : Nat) : Nat := n / 2 ^ (4 * i) % 16

/-- The next entries of the power table, each the product of the one before it and the base
(43_exponent.md R221). -/
def powTableFrom (c : Cfg) (b : FElem) : Nat → FElem → List FElem
  | 0, _ => []
  | k + 1, last =>
    let next := mulElem c last b
    next :: powTableFrom c b k next

/-- The 16-entry power table: the identity, the base, and 14 successive products (43_exponent.md R221). -/
def powTable (c : Cfg) (b : FElem) : List FElem := oneElem c :: b :: powTableFrom c b 14 b

/-- A read of the power table (43_exponent.md R222). The scan of R227 reads all 16 entries and selects this one; it
bears on time only. -/
def tableEntry (tb : List FElem) (w : Nat) : FElem := tb.getD w zeroElem

/-- One iteration of the main loop: four squarings and the product with the window's entry (43_exponent.md R222). -/
def powRound (c : Cfg) (tb : List FElem) (w : Nat) (acc : FElem) : FElem :=
  mulElem c (sqrElem c (sqrElem c (sqrElem c (sqrElem c acc)))) (tableEntry tb w)

/-- The main loop over windows `i-1` down to 0 (43_exponent.md R222). -/
def powLoop (c : Cfg) (tb : List FElem) (n : Nat) : Nat → FElem → FElem
  | 0, acc => acc
  | i + 1, acc => powLoop c tb n i (powRound c tb (window n i) acc)

/-- `pow(b, n)`: fixed 4-bit-window exponentiation, left to right, fully reduced at the end
(43_exponent.md R220 to R223). -/
def powElem (c : Cfg) (b : FElem) (n : Nat) : FElem :=
  let tb := powTable c b
  let top := windowCount n - 1
  fullReduce c (powLoop c tb n top (tableEntry tb (window n top)))

/-- `inv(b) = pow(b, p - 2)` (44_inv_sqrt.md R240). -/
def invElem (c : Cfg) (b : FElem) : FElem := powElem c b (c.p - 2)

/-- Atkin's square root for `p = 5 (mod 8)` (44_inv_sqrt.md R244). -/
def sqrtAtkin (c : Cfg) (a : FElem) : FElem :=
  let t := addElem c a a
  let v := powElem c t ((c.p - 5) / 8)
  let i := subElem c (mulElem c (mulElem c t v) v) (oneElem c)
  fullReduce c (mulElem c (mulElem c a v) i)

/-- The square root for `p = 3 or 7 (mod 8)`: `pow(a, (p+1)/4)` (44_inv_sqrt.md R245). -/
def sqrtPower (c : Cfg) (a : FElem) : FElem := powElem c a ((c.p + 1) / 4)

end Sys2Proof.Machine
end

