-- ==== Sys2Proof/Machine/Flags.lean ====
section
/-! DEFINITION. What the machine computes as single bits: the values the test commands write to T (42_arith.md R193,
R195, 44_inv_sqrt.md R248), the condition of CSWAP and CMOV (45_utility.md R261), and the derived bits IDLE, BUSY and
IRQ (10_state.md R45, R64). -/

namespace Sys2Proof.Machine

/-- `jacobi(x, p)` for the prime `p`: 0 if `p` divides `x`, +1 if `x mod p` is a non-zero square, -1 otherwise
(44_inv_sqrt.md R248, 93_implementation_defined.md G6), computed by Euler's criterion (notes/assumptions/7.md). -/
def jacobi (x p : Nat) : Int :=
  if x % p = 0 then 0
  else if powMod x ((p - 1) / 2) p = 1 then 1
  else -1

/-- What ISZ writes to T: whether `g mod p` is 0 (42_arith.md R193). -/
def isZeroFlag (c : Cfg) (a : FElem) : Bool := decide (a.g % c.p = 0)

/-- What EQU writes to T: whether the canonical representatives agree (42_arith.md R195). -/
def equalFlag (c : Cfg) (a b : FElem) : Bool := decide (a.g % c.p = b.g % c.p)

/-- What QR writes to T: whether the Jacobi symbol of the value out of residue form is +1 (44_inv_sqrt.md R248). -/
def residueFlag (c : Cfg) (b : FElem) : Bool := decide (jacobi (fromResidue c b) c.p = 1)

/-- `cond(S, C)`: the constant C when `S = 0`, the flag T when `S = 1` (45_utility.md R261). -/
def condition (sel c t : Bool) : Bool := if sel then t else c

/-- `BUSY` (10_state.md R45). -/
def State.busy (s : State) : Bool := s.inflight.isSome

/-- `IDLE = (BUSY = 0) and (FIFOCNT = 0)` (10_state.md R45). -/
def State.idle (s : State) : Bool := !s.busy && s.fifo.isEmpty

/-- The interrupt output, a level (10_state.md R64, 60_exceptions.md R291). -/
def State.irq (s : State) : Bool := (s.done && s.ieDone) || (s.error.err && s.ieErr)

end Sys2Proof.Machine
end

