-- ==== Sys2Proof/Machine/Operands.lean ====
section
/-! DEFINITION. Reading the operands of a command (30_encoding.md R103, R104, R108): the registers, their valid bits,
the order in which sources are checked, and the ROM. -/

namespace Sys2Proof.Machine

/-- `F[i]` as a field element (00_scope.md R13). -/
def State.felem (s : State) (i : FIdx) : FElem := s.f[i].elem

/-- `X[i]` as an integer (00_scope.md R13). -/
def State.xval (s : State) (i : XIdx) : Nat := s.x[i].value

/-- The valid bit of a register (10_state.md R41). -/
def State.validReg (s : State) : RegName → Bool
  | .f i => s.f[i].valid
  | .x i => s.x[i].valid

/-- The first register of a list of sources whose valid bit is 0 (30_encoding.md R108). -/
def firstInvalid (s : State) : List RegName → Option RegName
  | [] => none
  | r :: rest => if s.validReg r then firstInvalid s rest else some r

/-- The sources of a command in the order they are checked: field A, then B, then D
(30_encoding.md R104, R108; 60_exceptions.md R281). -/
def sources : Instr → List RegName
  | .nop => []
  | .zero _ => []
  | .one _ => []
  | .copy _ a => [.f a]
  | .ldc _ _ => []
  | .tores _ a => [.x a]
  | .fromres _ a => [.f a]
  | .rdd _ a b => [.x a, .x b]
  | .add _ a b => [.f a, .f b]
  | .sub _ a b => [.f a, .f b]
  | .neg _ a => [.f a]
  | .mul _ a b => [.f a, .f b]
  | .sqr _ a => [.f a]
  | .imul _ a _ => [.f a]
  | .half _ a => [.f a]
  | .fred _ a => [.f a]
  | .pow _ a b => [.f a, .x b]
  | .inv _ a => [.f a]
  | .sqrt _ a => [.f a]
  | .qr a => [.f a]
  | .isz a => [.f a]
  | .equ a b => [.f a, .f b]
  | .cswap d a _ _ => [.f a, .f d]
  | .cmov d a _ _ => [.f a, .f d]

/-- `CROM[K]` (40_residue.md R134, 20_memory.md R70). -/
def romEntry (c : Cfg) (k : Fin 16) : Nat := c.crom[k]

end Sys2Proof.Machine
end

