-- ==== Sys2Proof/Machine/Ops.lean ====
section
/-! DEFINITION. The named operations on the state: register writes (00_scope.md R13), the start and the completion of a
command (10_state.md R45, R46, R55), taking an error and returning from one (60_exceptions.md R283, R288), and reset
(70_reset_and_hazards.md R320, R321). -/

namespace Sys2Proof.Machine

/-- `F[i] <- (g, e)`: the register takes the element and its valid bit is set (00_scope.md R13). -/
def State.setF (s : State) (i : FIdx) (a : FElem) : State := { s with f := s.f.set i ⟨a, true⟩ }

/-- `X[i] <- v`: the register takes the integer and its valid bit is set (00_scope.md R13). -/
def State.setX (s : State) (i : XIdx) (v : Nat) : State := { s with x := s.x.set i ⟨v, true⟩ }

/-- `T <- b` (00_scope.md R13). -/
def State.setT (s : State) (b : Bool) : State := { s with tFlag := b }

/-- The engine removes the head word of the FIFO and `BUSY` becomes 1. It does so only when `BUSY = 0`, `ERR = 0` and
the FIFO holds a word; otherwise it does nothing (10_state.md R44, R45; 60_exceptions.md R299). -/
def State.beginCommand (s : State) : State :=
  if s.busy || s.error.err then s
  else
    match s.fifo with
    | [] => s
    | w :: rest => { s with inflight := some w, fifo := rest }

/-- A command completes without error: `BUSY` becomes 0, `CMDCNT` counts it (10_state.md R46), and `DONE` is set when
the FIFO is then empty (10_state.md R55). -/
def State.complete (s : State) : State :=
  { s with inflight := none, cmdcnt := s.cmdcnt + 1, done := s.done || s.fifo.isEmpty }

/-- `OPFILE`: 0 for the F file, 1 for the X file (10_state.md R56). -/
def RegName.isX : RegName → Bool
  | .f _ => false
  | .x _ => true

/-- `OPIDX`: the index of the register (10_state.md R56). -/
def RegName.index : RegName → Fin 16
  | .f i => i
  | .x i => i

/-- The error state an error leaves: `ERR`, the code, the operand record, the faulting word and its position
(60_exceptions.md R280, R283). -/
def errorRecord (code : ErrCode) (o : Option RegName) (word : Word) (idx : BitVec 32) : ErrorState :=
  match o with
  | none => ⟨true, code, false, false, 0, word, idx⟩
  | some r => ⟨true, code, true, r.isX, r.index, word, idx⟩

/-- Error entry, in one step (60_exceptions.md R283): the record is set, the FIFO is emptied, `BUSY` becomes 0; no
register and no flag is written, `CMDCNT` and `DONE` keep their values. The faulting word is the one in flight. -/
def State.raise (s : State) (code : ErrCode) (o : Option RegName) : State :=
  { s with error := errorRecord code o (s.inflight.getD 0) s.cmdcnt, fifo := [], inflight := none }

/-- Return from an error, by `CTRL.CLRERR` (60_exceptions.md R288). -/
def State.clearError (s : State) : State := { s with error := ErrorState.clear }

/-- The operand checks of a command (30_encoding.md R108): the first source that is not valid raises `E_UNINIT` naming
it (60_exceptions.md R281); with every source valid the command goes on as given. -/
def State.checked (s : State) (srcs : List RegName) (go : State) : State :=
  match firstInvalid s srcs with
  | some r => s.raise .uninit (some r)
  | none => go

/-- Every piece of state at its reset value, with the build and the turns still to come kept
(10_state.md R65; 70_reset_and_hazards.md R321, R323). The pin `rst_n` keeps its level. -/
def State.softReset (s : State) : State :=
  { State.resetOf s.cfg with rstN := s.rstN, turns := s.turns }

/-- The pin `rst_n` takes a level (70_reset_and_hazards.md R320): low puts every piece of state at its reset value, a
command in flight is abandoned; high releases the block. -/
def State.setResetPin (s : State) (level : Bool) : State :=
  if level then { s with rstN := true } else { s.softReset with rstN := false }

/-- A command word placed where the engine takes its next one: in flight, with the block out of reset and the engine
to move next (notes/assumptions/6.md). -/
def State.withCommand (s : State) (w : Word) : State :=
  { s with inflight := some w, rstN := true, turns := .engine :: s.turns }

end Sys2Proof.Machine
end

