-- ==== Sys2Proof/Machine/Arith.lean ====
section
/-! DEFINITION. The arithmetic commands of 42_arith.md: ADD, SUB, NEG, MUL, SQR, IMUL, HALF, FRED, ISZ, EQU. -/

namespace Sys2Proof.Machine

/-- ADD (42_arith.md R172). -/
def execAdd (d a b : FIdx) (s : State) : Host.Outcome State Fault Refusal :=
  .next <| s.checked [.f a, .f b] (s.setF d (addElem s.cfg (s.felem a) (s.felem b))).complete

/-- SUB (42_arith.md R179). -/
def execSub (d a b : FIdx) (s : State) : Host.Outcome State Fault Refusal :=
  .next <| s.checked [.f a, .f b] (s.setF d (subElem s.cfg (s.felem a) (s.felem b))).complete

/-- NEG (42_arith.md R176). -/
def execNeg (d a : FIdx) (s : State) : Host.Outcome State Fault Refusal :=
  .next <| s.checked [.f a] (s.setF d (negElem s.cfg (s.felem a))).complete

/-- MUL (42_arith.md R182). -/
def execMul (d a b : FIdx) (s : State) : Host.Outcome State Fault Refusal :=
  .next <| s.checked [.f a, .f b] (s.setF d (mulElem s.cfg (s.felem a) (s.felem b))).complete

/-- SQR (42_arith.md R187). -/
def execSqr (d a : FIdx) (s : State) : Host.Outcome State Fault Refusal :=
  .next <| s.checked [.f a] (s.setF d (sqrElem s.cfg (s.felem a))).complete

/-- IMUL (42_arith.md R200). -/
def execImul (d a : FIdx) (k : Int) (s : State) : Host.Outcome State Fault Refusal :=
  .next <| s.checked [.f a] (s.setF d (imulElem s.cfg (s.felem a) k)).complete

/-- HALF (42_arith.md R204). -/
def execHalf (d a : FIdx) (s : State) : Host.Outcome State Fault Refusal :=
  .next <| s.checked [.f a] (s.setF d (halfElem s.cfg (s.felem a))).complete

/-- FRED (42_arith.md R191). -/
def execFred (d a : FIdx) (s : State) : Host.Outcome State Fault Refusal :=
  .next <| s.checked [.f a] (s.setF d (fullReduce s.cfg (s.felem a))).complete

/-- ISZ (42_arith.md R193): only T is written. -/
def execIsz (a : FIdx) (s : State) : Host.Outcome State Fault Refusal :=
  .next <| s.checked [.f a] (s.setT (isZeroFlag s.cfg (s.felem a))).complete

/-- EQU (42_arith.md R195): only T is written. -/
def execEqu (a b : FIdx) (s : State) : Host.Outcome State Fault Refusal :=
  .next <| s.checked [.f a, .f b] (s.setT (equalFlag s.cfg (s.felem a) (s.felem b))).complete

end Sys2Proof.Machine
end

