-- ==== Sys2Proof/Machine/Exponent.lean ====
section
/-! DEFINITION. The commands built on exponentiation: POW (43_exponent.md), INV, SQRT and QR (44_inv_sqrt.md); and the
engine's own count of the multiplications and squarings a power takes (43_exponent.md R226). -/

namespace Sys2Proof.Machine

/-- POW (43_exponent.md R225): the base in an F register, the exponent in an X register. -/
def execPow (d a : FIdx) (b : XIdx) (s : State) : Host.Outcome State Fault Refusal :=
  .next <| s.checked [.f a, .x b] (s.setF d (powElem s.cfg (s.felem a) (s.xval b))).complete

/-- INV (44_inv_sqrt.md R241): any zero gives `(0, 1)`, with no error. -/
def execInv (d a : FIdx) (s : State) : Host.Outcome State Fault Refusal :=
  .next <| s.checked [.f a] (s.setF d (invElem s.cfg (s.felem a))).complete

/-- SQRT (44_inv_sqrt.md R243, R247): by the build's `MOD8`; a build with `MOD8 = 1` raises `E_SQRT_UNSUP` after the
operand check (R246). -/
def execSqrt (d a : FIdx) (s : State) : Host.Outcome State Fault Refusal :=
  .next <| s.checked [.f a] <|
    if s.cfg.mod8 = 1 then s.raise .sqrtUnsup none
    else if s.cfg.mod8 = 5 then (s.setF d (sqrtAtkin s.cfg (s.felem a))).complete
    else (s.setF d (sqrtPower s.cfg (s.felem a))).complete

/-- QR (44_inv_sqrt.md R249): only T is written. -/
def execQr (a : FIdx) (s : State) : Host.Outcome State Fault Refusal :=
  .next <| s.checked [.f a] (s.setT (residueFlag s.cfg (s.felem a))).complete

/-- A count of squarings and multiplications (43_exponent.md R226). -/
structure Work where
  sqr : Nat
  mul : Nat
deriving DecidableEq, Repr

/-- A squaring that counts itself. -/
def sqrCounted (c : Cfg) (a : FElem × Work) : FElem × Work := (sqrElem c a.1, ⟨a.2.sqr + 1, a.2.mul⟩)

/-- A multiplication that counts itself. -/
def mulCounted (c : Cfg) (a : FElem × Work) (b : FElem) : FElem × Work :=
  (mulElem c a.1 b, ⟨a.2.sqr, a.2.mul + 1⟩)

/-- The next entries of the power table, with the work so far (43_exponent.md R221). -/
def powTableCounted (c : Cfg) (b : FElem) : Nat → FElem × Work → List FElem × Work
  | 0, last => ([], last.2)
  | k + 1, last =>
    let next := mulCounted c last b
    let rest := powTableCounted c b k next
    (next.1 :: rest.1, rest.2)

/-- The main loop, with the work so far (43_exponent.md R222). -/
def powLoopCounted (c : Cfg) (tb : List FElem) (n : Nat) : Nat → FElem × Work → FElem × Work
  | 0, acc => acc
  | i + 1, acc =>
    let squared := sqrCounted c (sqrCounted c (sqrCounted c (sqrCounted c acc)))
    powLoopCounted c tb n i (mulCounted c squared (tableEntry tb (window n i)))

/-- `pow(b, n)` with the squarings and multiplications it performs, counted as it goes (43_exponent.md R220 to R223,
R226). -/
def powCounted (c : Cfg) (b : FElem) (n : Nat) : FElem × Work :=
  let table := powTableCounted c b 14 (b, ⟨0, 0⟩)
  let tb := oneElem c :: b :: table.1
  let top := windowCount n - 1
  let acc := powLoopCounted c tb n top (tableEntry tb (window n top), table.2)
  (fullReduce c acc.1, acc.2)

end Sys2Proof.Machine
end

