-- ==== Sys2Proof/Machine/Residue.lean ====
section
/-! DEFINITION. TORES, FROMRES and LDC (40_residue.md), and RDD (41_reduction.md R157): the commands that move values
between the two register files and the ROM. -/

namespace Sys2Proof.Machine

/-- TORES (40_residue.md R131): an integer of `X[A]` at or above `p` raises `E_RANGE`. -/
def execTores (d : FIdx) (a : XIdx) (s : State) : Host.Outcome State Fault Refusal :=
  .next <| s.checked [.x a] <|
    if s.cfg.p ≤ s.xval a then s.raise .range (some (.x a))
    else (s.setF d (toResidue s.cfg (s.xval a))).complete

/-- FROMRES (40_residue.md R133). -/
def execFromres (d : XIdx) (a : FIdx) (s : State) : Host.Outcome State Fault Refusal :=
  .next <| s.checked [.f a] (s.setX d (fromResidue s.cfg (s.felem a))).complete

/-- LDC (40_residue.md R134). -/
def execLdc (d : FIdx) (k : Fin 16) (s : State) : Host.Outcome State Fault Refusal :=
  .next (s.setF d (toResidue s.cfg (romEntry s.cfg k))).complete

/-- The double-width operand of RDD, `X[A] * 2^GW + X[B]` (41_reduction.md R157). -/
def doubleWidth (s : State) (a b : XIdx) : Nat := s.xval a * s.cfg.r + s.xval b

/-- RDD (41_reduction.md R157): a `d` outside the reduction contract raises `E_RANGE` naming the high half. -/
def execRdd (d a b : XIdx) (s : State) : Host.Outcome State Fault Refusal :=
  .next <| s.checked [.x a, .x b] <|
    if reduceBound s.cfg < doubleWidth s a b then s.raise .range (some (.x a))
    else (s.setX d (reduce s.cfg (doubleWidth s a b))).complete

end Sys2Proof.Machine
end

