-- ==== Sys2Proof/Machine/Utility.lean ====
section
/-! DEFINITION. The constant-time and utility commands of 45_utility.md: CSWAP, CMOV, COPY, ZERO, ONE, NOP. -/

namespace Sys2Proof.Machine

/-- CSWAP (45_utility.md R260): both registers are checked and both are written, whatever the condition. -/
def execCswap (d a : FIdx) (sel c : Bool) (s : State) : Host.Outcome State Fault Refusal :=
  .next <| s.checked [.f a, .f d] <|
    if condition sel c s.tFlag then ((s.setF d (s.felem a)).setF a (s.felem d)).complete
    else ((s.setF d (s.felem d)).setF a (s.felem a)).complete

/-- CMOV (45_utility.md R262): both registers are checked and the destination is written, whatever the condition. -/
def execCmov (d a : FIdx) (sel c : Bool) (s : State) : Host.Outcome State Fault Refusal :=
  .next <| s.checked [.f a, .f d]
    (s.setF d (if condition sel c s.tFlag then s.felem a else s.felem d)).complete

/-- COPY (45_utility.md R264). -/
def execCopy (d a : FIdx) (s : State) : Host.Outcome State Fault Refusal :=
  .next <| s.checked [.f a] (s.setF d (s.felem a)).complete

/-- ZERO (45_utility.md R266). -/
def execZero (d : FIdx) (s : State) : Host.Outcome State Fault Refusal :=
  .next (s.setF d zeroElem).complete

/-- ONE (45_utility.md R268). -/
def execOne (d : FIdx) (s : State) : Host.Outcome State Fault Refusal :=
  .next (s.setF d (oneElem s.cfg)).complete

/-- NOP (45_utility.md R270): the command completes. -/
def execNop (s : State) : Host.Outcome State Fault Refusal := .next s.complete

end Sys2Proof.Machine
end

