-- ==== Sys2Proof/Machine/Dispatch.lean ====
section
/-! DEFINITION. The meaning of every command, one arm per constructor of `Instr`. -/

namespace Sys2Proof.Machine

def exec (i : Instr) (s : State) : Host.Outcome State Fault Refusal :=
  match i with
  | .nop => Sys2Proof.Machine.execNop s
  | .zero d => Sys2Proof.Machine.execZero d s
  | .one d => Sys2Proof.Machine.execOne d s
  | .copy d a => Sys2Proof.Machine.execCopy d a s
  | .ldc d k => Sys2Proof.Machine.execLdc d k s
  | .tores d a => Sys2Proof.Machine.execTores d a s
  | .fromres d a => Sys2Proof.Machine.execFromres d a s
  | .rdd d a b => Sys2Proof.Machine.execRdd d a b s
  | .add d a b => Sys2Proof.Machine.execAdd d a b s
  | .sub d a b => Sys2Proof.Machine.execSub d a b s
  | .neg d a => Sys2Proof.Machine.execNeg d a s
  | .mul d a b => Sys2Proof.Machine.execMul d a b s
  | .sqr d a => Sys2Proof.Machine.execSqr d a s
  | .imul d a k => Sys2Proof.Machine.execImul d a k s
  | .half d a => Sys2Proof.Machine.execHalf d a s
  | .fred d a => Sys2Proof.Machine.execFred d a s
  | .pow d a b => Sys2Proof.Machine.execPow d a b s
  | .inv d a => Sys2Proof.Machine.execInv d a s
  | .sqrt d a => Sys2Proof.Machine.execSqrt d a s
  | .qr a => Sys2Proof.Machine.execQr a s
  | .isz a => Sys2Proof.Machine.execIsz a s
  | .equ a b => Sys2Proof.Machine.execEqu a b s
  | .cswap d a sel c => Sys2Proof.Machine.execCswap d a sel c s
  | .cmov d a sel c => Sys2Proof.Machine.execCmov d a sel c s

end Sys2Proof.Machine
end

