-- ==== Sys2Proof/Machine/Window.lean ====
section
/-! DEFINITION. The host window (20_memory.md): the address map (R74), the contents of the registers as a host reads
them (10_state.md R49 to R63), the effect of a write, and the refusal of an access (R79). -/

namespace Sys2Proof.Machine

/-- What stands at an offset of the host window (20_memory.md R74). -/
inductive Target where
  | id
  | cfg0
  | cfg1
  | capr
  | ctrl
  | status
  | errinfo
  | errcmd
  | erridx
  | cmdcnt
  | cmd
  | xvalid
  | fvalid
  | mconstlo
  | mconsthi
  /-- Word `j` of the modulus (R75). -/
  | mod (j : Nat)
  /-- Word `j` of `X[i]` (R76). -/
  | xword (i : XIdx) (j : Nat)
  /-- Word `j` of the value of `F[i]` (R77). -/
  | fword (i : FIdx) (j : Nat)
  /-- The excess of `F[i]` (R77). -/
  | fexcess (i : FIdx)
deriving DecidableEq, Repr

/-- The register that a slot offset of the X or F window lies in: 256 bytes a register (20_memory.md R74). -/
def slotIndex (off : Nat) : Fin 16 := Fin.ofNat 16 (off / 0x100)

/-- The word that an offset within a slot lies in (20_memory.md R74, R78). -/
def slotWord (off : Nat) : Nat := off % 0x100 / 4

/-- The single registers of the window (20_memory.md R74). -/
def registerTarget (off : Nat) : Option Target :=
  match off with
  | 0x000 => some .id
  | 0x004 => some .cfg0
  | 0x008 => some .cfg1
  | 0x00C => some .capr
  | 0x010 => some .ctrl
  | 0x014 => some .status
  | 0x018 => some .errinfo
  | 0x01C => some .errcmd
  | 0x020 => some .erridx
  | 0x024 => some .cmdcnt
  | 0x028 => some .cmd
  | 0x02C => some .xvalid
  | 0x030 => some .fvalid
  | 0x034 => some .mconstlo
  | 0x038 => some .mconsthi
  | _ => none

/-- The MOD, X and F windows (20_memory.md R74). -/
def windowTarget (c : Cfg) (off : Nat) : Option Target :=
  if 0x100 ≤ off ∧ off < 0x200 then
    if slotWord off < c.xw then some (.mod (slotWord off)) else none
  else if 0x1000 ≤ off ∧ off < 0x2000 then
    if slotWord off < c.xw then some (.xword (slotIndex (off - 0x1000)) (slotWord off)) else none
  else if 0x2000 ≤ off ∧ off < 0x3000 then
    if slotWord off < c.xw then some (.fword (slotIndex (off - 0x2000)) (slotWord off))
    else if slotWord off = 63 then some (.fexcess (slotIndex (off - 0x2000)))
    else none
  else none

/-- The address map: what stands at an aligned offset, `none` where the window is unmapped (20_memory.md R74). -/
def targetAt (c : Cfg) (off : Nat) : Option Target := (registerTarget off).or (windowTarget c off)

/-- What an access reaches: a 32-bit access at an aligned, mapped offset (20_memory.md R72, R73, R74). -/
def accessTarget (c : Cfg) (addr : BitVec 14) (size : AccessSize) : Option Target :=
  if size = .bits32 ∧ addr.toNat % 4 = 0 then targetAt c addr.toNat else none

/-- The X and F windows, which are open only while IDLE (20_memory.md R80). -/
def Target.isData : Target → Bool
  | .xword _ _ => true
  | .fword _ _ => true
  | .fexcess _ => true
  | _ => false

/-- Word `j` of a `GW`-bit integer, least significant word first, bits at or above `GW` read as 0
(20_memory.md R75 to R78). -/
def wordOf (c : Cfg) (v j : Nat) : Word := BitVec.ofNat 32 (v % c.r / 2 ^ (32 * j))

/-- A `GW`-bit integer with word `j` replaced; bits of the word at or above `GW` are discarded (20_memory.md R76). -/
def replaceWord (c : Cfg) (v j : Nat) (data : Word) : Nat :=
  (v % 2 ^ (32 * j) + data.toNat * 2 ^ (32 * j) + v / 2 ^ (32 * (j + 1)) * 2 ^ (32 * (j + 1))) % c.r

/-- One bit at a position of a register word (00_scope.md R12). -/
def bitAt (b : Bool) (pos : Nat) : Nat := if b then 2 ^ pos else 0

/-- `ID`: ASCII "FPE1" (10_state.md R50, 00_scope.md R2). -/
def idWord : Word := 0x46504531

/-- `CFG0` (10_state.md R51). -/
def cfg0Word (c : Cfg) : Word :=
  BitVec.ofNat 32 (c.shape.code + c.mod8 * 2 ^ 2 + c.fifoDepth * 2 ^ 8 + c.nbits * 2 ^ 16)

/-- `CFG1` (10_state.md R52). -/
def cfg1Word (c : Cfg) : Word := BitVec.ofNat 32 (c.w + c.gw * 2 ^ 16)

/-- `CTRL` as it reads: SRST, CLRERR and the reserved bits read 0 (10_state.md R54). -/
def State.ctrlWord (s : State) : Word := BitVec.ofNat 32 (bitAt s.ieDone 2 + bitAt s.ieErr 3)

/-- `STATUS` (10_state.md R55). -/
def State.statusWord (s : State) : Word :=
  BitVec.ofNat 32
    (bitAt s.busy 0 + bitAt s.idle 1 + bitAt s.error.err 2 + bitAt s.tFlag 3 + bitAt s.done 4 + bitAt s.ovf 5
      + bitAt s.cmddrop 6 + bitAt s.accerr 7 + s.fifo.length * 2 ^ 8)

/-- The code of an error as `ECODE` shows it (60_exceptions.md R280). -/
def ErrCode.code : ErrCode → Nat
  | .none => 0
  | .illegal => 1
  | .uninit => 2
  | .range => 3
  | .sqrtUnsup => 4

/-- `ERRINFO` (10_state.md R56). -/
def ErrorState.infoWord (e : ErrorState) : Word :=
  BitVec.ofNat 32 (e.ecode.code + e.opidx.val * 2 ^ 4 + bitAt e.opfile 8 + bitAt e.opvalid 9)

/-- Bits from a list, the first at position `pos` and each next one above it. -/
def bitsFrom (pos : Nat) : List Bool → Nat
  | [] => 0
  | b :: rest => bitAt b pos + bitsFrom (pos + 1) rest

/-- `XVALID` (10_state.md R61). -/
def State.xvalidWord (s : State) : Word := BitVec.ofNat 32 (bitsFrom 0 (s.x.toList.map XReg.valid))

/-- `FVALID` (10_state.md R62). -/
def State.fvalidWord (s : State) : Word := BitVec.ofNat 32 (bitsFrom 0 (s.f.toList.map FReg.valid))

/-- `MCONSTLO` and `MCONSTHI` show the two words of `MCONST`, and 0 in a GM build (10_state.md R63). -/
def mconstWord (c : Cfg) (j : Nat) : Word :=
  if c.shape = .gm then 0 else BitVec.ofNat 32 (c.mconst / 2 ^ (32 * j))

/-- What a read of a target returns (10_state.md R49 to R63, 20_memory.md R75 to R77). -/
def State.readTarget (s : State) : Target → Word
  | .id => idWord
  | .cfg0 => cfg0Word s.cfg
  | .cfg1 => cfg1Word s.cfg
  | .capr => BitVec.ofNat 32 s.cfg.cap
  | .ctrl => s.ctrlWord
  | .status => s.statusWord
  | .errinfo => s.error.infoWord
  | .errcmd => s.error.errcmd
  | .erridx => s.error.erridx
  | .cmdcnt => s.cmdcnt
  | .cmd => 0
  | .xvalid => s.xvalidWord
  | .fvalid => s.fvalidWord
  | .mconstlo => mconstWord s.cfg 0
  | .mconsthi => mconstWord s.cfg 1
  | .mod j => wordOf s.cfg s.cfg.p j
  | .xword i j => wordOf s.cfg (s.xval i) j
  | .fword i j => wordOf s.cfg (s.felem i).g j
  | .fexcess i => BitVec.ofNat 32 (s.felem i).e

/-- A refused read returns 0 and sets ACCERR (20_memory.md R79). -/
def State.refuseRead (s : State) : State := { s with accerr := true, reply := some 0 }

/-- A refused write changes nothing but ACCERR (20_memory.md R79). -/
def State.refuseWrite (s : State) : State := { s with accerr := true, reply := none }

/-- A write to CTRL (10_state.md R54): SRST performs the soft reset and the other bits are ignored; otherwise CLRERR
clears the error state and the two enables take the written bits. -/
def State.writeCtrl (s : State) (data : Word) : State :=
  if data.getLsbD 0 then s.softReset
  else
    let cleared := if data.getLsbD 1 then s.clearError else s
    { cleared with ieDone := data.getLsbD 2, ieErr := data.getLsbD 3 }

/-- A write to STATUS: writing 1 clears a W1C bit, nothing else changes (10_state.md R55). -/
def State.writeStatus (s : State) (data : Word) : State :=
  { s with
    done := s.done && !data.getLsbD 4
    ovf := s.ovf && !data.getLsbD 5
    cmddrop := s.cmddrop && !data.getLsbD 6
    accerr := s.accerr && !data.getLsbD 7 }

/-- A write to CMD (20_memory.md R82): dropped with CMDDROP while `ERR = 1`, dropped with OVF when the FIFO is full,
appended otherwise; the word is not checked. -/
def State.writeCmd (s : State) (data : Word) : State :=
  if s.error.err then { s with cmddrop := true }
  else if s.fifo.length = s.cfg.fifoDepth then { s with ovf := true }
  else { s with fifo := s.fifo ++ [data] }

/-- A write to word `j` of `X[i]` (20_memory.md R76): the word is replaced and the valid bit of the whole register is
set. -/
def State.writeXWord (s : State) (i : XIdx) (j : Nat) (data : Word) : State :=
  s.setX i (replaceWord s.cfg (s.xval i) j data)

/-- What a write to a target does: `none` where the target is read-only (10_state.md R49, 20_memory.md R79, R81). -/
def State.writeTarget (s : State) (data : Word) : Target → Option State
  | .ctrl => some (s.writeCtrl data)
  | .status => some (s.writeStatus data)
  | .cmd => some (s.writeCmd data)
  | .xword i j => some (s.writeXWord i j data)
  | _ => none

/-- A host read (20_memory.md R79 to R81). -/
def State.hostRead (s : State) (addr : BitVec 14) (size : AccessSize) : State :=
  match accessTarget s.cfg addr size with
  | none => s.refuseRead
  | some target =>
    if target.isData && !s.idle then s.refuseRead else { s with reply := some (s.readTarget target) }

/-- A host write (20_memory.md R79 to R82). -/
def State.hostWrite (s : State) (addr : BitVec 14) (size : AccessSize) (data : Word) : State :=
  match accessTarget s.cfg addr size with
  | none => s.refuseWrite
  | some target =>
    if target.isData && !s.idle then s.refuseWrite
    else
      match s.writeTarget data target with
      | none => s.refuseWrite
      | some s' => { s' with reply := none }

/-- One access of the host takes effect, in one step (20_memory.md R83). While `rst_n` is low it is not answered and
changes no state (70_reset_and_hazards.md R320, 93_implementation_defined.md I30). -/
def State.hostAccess (s : State) (a : Access) : State :=
  if s.rstN then
    match a with
    | .read addr size => s.hostRead addr size
    | .write addr size data => s.hostWrite addr size data
  else { s with reply := none }

end Sys2Proof.Machine
end

