-- ==== Sys2Proof/Machine/Engine.lean ====
section
/-! DEFINITION. One turn of an agent (10_state.md R30): what the engine does when it moves, and whose turn is next. -/

namespace Sys2Proof.Machine

/-- The engine executes the word in flight: the command it decodes to, or `E_ILLEGAL` for an illegal word
(30_encoding.md R106, 60_exceptions.md R282, R286). -/
def executeWord (w : Word) (s : State) : Host.Outcome State Fault Refusal :=
  match decode w with
  | .ok i => exec i s
  | .error _ => .next (s.raise .illegal none)

/-- The engine moves: it completes the command in flight if there is one, and otherwise begins the next
(10_state.md R30, R45). While `rst_n` is low it does nothing (70_reset_and_hazards.md R320). -/
def engineTurn (s : State) : Host.Outcome State Fault Refusal :=
  if s.rstN then
    match s.inflight with
    | some w => executeWord w s
    | none => .next s.beginCommand
  else .next s

/-- The next turn: the first of those scheduled, or the engine's when none is (10_state.md R30, 20_memory.md R84;
notes/assumptions/4.md). -/
def takeTurn (s : State) : Host.Outcome State Fault Refusal :=
  match s.turns with
  | [] => engineTurn s
  | .engine :: rest => engineTurn { s with turns := rest }
  | .host a :: rest => .next (State.hostAccess { s with turns := rest } a)
  | .resetPin level :: rest => .next (State.setResetPin { s with turns := rest } level)

end Sys2Proof.Machine
end

