-- ==== Sys2Proof/Machine/Step.lean ====
section
/-! DEFINITION. One step of the machine. -/

namespace Sys2Proof.Machine

/-- One step: the next turn of a well-formed build; a build that breaks 00_scope.md R9 is refused, not run. -/
def step (s : State) : Host.Outcome State Fault Refusal :=
  if s.cfg.wellFormed then takeTurn s else .refused .illFormedBuild

/-- The state with the word of an opcode-table row placed where the engine takes its next command, so that the next
step runs it (notes/assumptions/6.md). A command is one 32-bit word (30_encoding.md R100). -/
def State.withFetchWord (s : State) (nbits w : Nat) : State := s.withCommand (BitVec.ofNat 32 (w % 2 ^ nbits))

end Sys2Proof.Machine
end

