-- ==== Sys2Proof/Machine/Assembler.lean ====
section
/-! DEFINITION. The assembler syntax and the pseudo-instructions of 30_encoding.md (R109, R110): one command a line,
the mnemonic, then operands separated by commas, the destination first. An operand outside its range or of the wrong
register file is an assembly error, and no word is emitted. -/

namespace Sys2Proof.Machine

/-- An operand as it is written (30_encoding.md R109): a register of either file, an immediate, or the flag `t`. -/
inductive AsmOperand where
  | f (i : FIdx)
  | x (i : XIdx)
  | imm (k : Int)
  | t
deriving DecidableEq, Repr

/-- The value of a decimal digit. -/
def decDigit (ch : Char) : Option Nat :=
  if '0' ≤ ch ∧ ch ≤ '9' then some (ch.toNat - '0'.toNat) else none

/-- The value of a hexadecimal digit. -/
def hexDigit (ch : Char) : Option Nat :=
  if 'a' ≤ ch ∧ ch ≤ 'f' then some (ch.toNat - 'a'.toNat + 10)
  else if 'A' ≤ ch ∧ ch ≤ 'F' then some (ch.toNat - 'A'.toNat + 10)
  else decDigit ch

/-- A number read digit by digit, the most significant first. -/
def digitsFrom (base : Nat) (value : Char → Option Nat) : Nat → List Char → Option Nat
  | acc, [] => some acc
  | acc, ch :: rest => (value ch).bind fun d => digitsFrom base value (acc * base + d) rest

/-- A number in decimal, or in hexadecimal after `0x` (30_encoding.md R109). -/
def parseNumber : List Char → Option Nat
  | [] => none
  | ['0', 'x'] => none
  | '0' :: 'x' :: rest => digitsFrom 16 hexDigit 0 rest
  | cs => digitsFrom 10 decDigit 0 cs

/-- A register index 0 to 15, in decimal as R109 writes it, with no leading zero (notes/assumptions/20.md). -/
def parseIndex (cs : List Char) : Option (Fin 16) :=
  if cs.isEmpty ∨ (cs.head? = some '0' ∧ 1 < cs.length) then none
  else (digitsFrom 10 decDigit 0 cs).bind fun n => if h : n < 16 then some ⟨n, h⟩ else none

/-- One operand (30_encoding.md R109): `f0` to `f15`, `x0` to `x15`, `#n`, or `t`. -/
def parseOperand : List Char → Option AsmOperand
  | ['t'] => some .t
  | 'f' :: cs => (parseIndex cs).map .f
  | 'x' :: cs => (parseIndex cs).map .x
  | '#' :: '-' :: cs => (parseNumber cs).map fun n => .imm (-(n : Int))
  | '#' :: cs => (parseNumber cs).map fun n => .imm (n : Int)
  | _ => none

/-- A line's text without blanks at either end. -/
def trimBlanks (cs : List Char) : List Char :=
  ((cs.dropWhile Char.isWhitespace).reverse.dropWhile Char.isWhitespace).reverse

/-- The operands of a line, separated by commas; no text at all is no operand. -/
def parseOperands (cs : List Char) : Option (List AsmOperand) :=
  if (trimBlanks cs).isEmpty then some [] else (cs.splitOn ',').mapM fun o => parseOperand (trimBlanks o)

/-- LDC with its ROM index in range (30_encoding.md R109). -/
def assembleLdc (d : FIdx) (k : Int) : Option Instr :=
  if h : k.toNat < 16 ∧ 0 ≤ k then some (.ldc d ⟨k.toNat, h.1⟩) else none

/-- The two commands with a condition, `#0`, `#1` or `t` (30_encoding.md R109). -/
def assembleCondition (command : Bool → Bool → Instr) : AsmOperand → Option Instr
  | .imm 0 => some (command false false)
  | .imm 1 => some (command false true)
  | .t => some (command true false)
  | _ => none

/-- The command of a mnemonic and its operands (30_encoding.md R109), a pseudo-instruction expanded to its one command
(R110); `none` is an assembly error. -/
def assemble (mnemonic : String) (ops : List AsmOperand) : Option Instr :=
  match mnemonic, ops with
  | "nop", [] => some .nop
  | "zero", [.f d] => some (.zero d)
  | "one", [.f d] => some (.one d)
  | "copy", [.f d, .f a] => some (.copy d a)
  | "ldc", [.f d, .imm k] => assembleLdc d k
  | "tores", [.f d, .x a] => some (.tores d a)
  | "fromres", [.x d, .f a] => some (.fromres d a)
  | "rdd", [.x d, .x a, .x b] => some (.rdd d a b)
  | "add", [.f d, .f a, .f b] => some (.add d a b)
  | "sub", [.f d, .f a, .f b] => some (.sub d a b)
  | "neg", [.f d, .f a] => some (.neg d a)
  | "mul", [.f d, .f a, .f b] => some (.mul d a b)
  | "sqr", [.f d, .f a] => some (.sqr d a)
  | "imul", [.f d, .f a, .imm k] => if scalarFits k then some (.imul d a k) else none
  | "half", [.f d, .f a] => some (.half d a)
  | "fred", [.f d, .f a] => some (.fred d a)
  | "pow", [.f d, .f a, .x b] => some (.pow d a b)
  | "inv", [.f d, .f a] => some (.inv d a)
  | "sqrt", [.f d, .f a] => some (.sqrt d a)
  | "qr", [.f a] => some (.qr a)
  | "isz", [.f a] => some (.isz a)
  | "equ", [.f a, .f b] => some (.equ a b)
  | "cswap", [.f d, .f a, o] => assembleCondition (.cswap d a) o
  | "cmov", [.f d, .f a, o] => assembleCondition (.cmov d a) o
  | "mov", [.f d, .f a] => some (.copy d a)
  | "dbl", [.f d, .f a] => some (.add d a a)
  | "canon", [.f d] => some (.fred d d)
  | "swap", [.f d, .f a] => some (.cswap d a false true)
  | "cswapt", [.f d, .f a] => some (.cswap d a true false)
  | "cmovt", [.f d, .f a] => some (.cmov d a true false)
  | "sqrx", [.f d, .f a] => some (.mul d a a)
  | _, _ => none

/-- One line of assembly text (30_encoding.md R109): its words, none for a blank or comment line, one for a command;
`none` is an assembly error. -/
def assembleLine (line : String) : Option (List Word) :=
  let code := trimBlanks (line.toList.takeWhile (· != ';'))
  if code.isEmpty then some []
  else
    let isMnemonic (ch : Char) : Bool := !ch.isWhitespace
    (parseOperands (code.dropWhile isMnemonic)).bind fun ops =>
      (assemble (String.ofList (code.takeWhile isMnemonic)) ops).map fun i => [encode i]

end Sys2Proof.Machine
end

