-- ==== Sys2Proof/Machine/Run.lean ====
section
/-! DEFINITION. The end of a run (60_exceptions.md R300): the first state with `IDLE = 1` after the last CMD write. -/

namespace Sys2Proof.Machine

/-- A host write of a command word to CMD (20_memory.md R82), the only way a command reaches the FIFO. -/
def Turn.isCmdWrite : Turn → Bool
  | .host (.write addr .bits32 _) => addr == 0x028
  | _ => false

/-- The last CMD write lies behind: none stands among the turns still to come (notes/assumptions/21.md). -/
def State.allCommandsWritten (s : State) : Bool := !s.turns.any Turn.isCmdWrite

/-- The command sequence has ended: the engine is idle after the last CMD write (60_exceptions.md R300). -/
def State.ended (s : State) : Bool := s.idle && s.allCommandsWritten

/-- The run of a command sequence: steps up to the first state in which it has ended, which is the result, with its
register contents and its error record (60_exceptions.md R300); `none` when it has not ended within the given number of
steps, or a step has no next state. -/
def runToEnd (k : Nat) (s : State) : Option State :=
  if s.ended then some s
  else
    match k with
    | 0 => none
    | k + 1 =>
      match step s with
      | .next t => runToEnd k t
      | _ => none

end Sys2Proof.Machine
end

