-- ==== Sys2Proof/Safety.lean ====
section
/-! DEFINITION. What counts as a safe state and a safe run, and the terms the statements use for the effect of a
command: which pieces of state it writes, and that it leaves the rest as it was. -/

namespace Sys2Proof.Machine

/-- An F register as 10_state.md R33, R40 and R65 allow it: a valid one obeys the excess invariant and fits `GW` bits,
one that nothing has written holds its reset value. -/
abbrev FReg.Ok (c : Cfg) (r : FReg) : Prop :=
  (r.valid = true → 1 ≤ r.elem.e ∧ r.elem.e ≤ c.cap ∧ r.elem.g ≤ r.elem.e * c.p ∧ r.elem.g < c.r) ∧
    (r.valid = false → r = FReg.reset)

/-- An X register as 10_state.md R39, R40 and R65 allow it: it fits `GW` bits, and one that nothing has written holds
its reset value. -/
abbrev XReg.Ok (c : Cfg) (r : XReg) : Prop := r.value < c.r ∧ (r.valid = false → r = XReg.reset)

/-- The error state as 10_state.md R48 and 60_exceptions.md R280 allow it: clear while `ERR = 0`; with `ERR = 1` a code
other than 0, and an operand record only where it is valid. -/
abbrev ErrorState.Ok (e : ErrorState) : Prop :=
  (e.err = false → e = ErrorState.clear) ∧
    (e.err = true → e.ecode ≠ .none ∧ (e.opvalid = false → e.opfile = false ∧ e.opidx = 0))

/-- The invariant of the machine: a build the model runs (00_scope.md R9), register files that obey 10_state.md R33 and
R40, a FIFO within its depth (R44), a coherent error state (R48) in which nothing is queued or in flight
(60_exceptions.md R283, R289), and reset values while `rst_n` is low (70_reset_and_hazards.md R320). -/
abbrev State.Inv (s : State) : Prop :=
  s.cfg.wellFormed = true ∧
    (∀ i : Fin 16, FReg.Ok s.cfg s.f[i]) ∧
    (∀ i : Fin 16, XReg.Ok s.cfg s.x[i]) ∧
    s.fifo.length ≤ s.cfg.fifoDepth ∧
    ErrorState.Ok s.error ∧
    (s.error.err = true → s.fifo = [] ∧ s.inflight = none) ∧
    (s.rstN = false → s = { State.resetOf s.cfg with rstN := false, turns := s.turns })

/-- The values that a reset leaves (10_state.md R65): every register, flag, counter, status and control bit, what they
make the host read, and the output IRQ. -/
structure HasResetValues (s : State) : Prop where
  f : ∀ i : Fin 16, s.f[i] = ⟨⟨0, 0⟩, false⟩
  x : ∀ i : Fin 16, s.x[i] = ⟨0, false⟩
  flag : s.tFlag = false
  fifo : s.fifo = []
  busy : s.busy = false
  idle : s.idle = true
  error : s.error = ⟨false, .none, false, false, 0, 0, 0⟩
  done : s.done = false
  ovf : s.ovf = false
  cmddrop : s.cmddrop = false
  accerr : s.accerr = false
  cmdcnt : s.cmdcnt = 0
  ieDone : s.ieDone = false
  ieErr : s.ieErr = false
  irq : s.irq = false
  status : s.statusWord = 2
  id : s.readTarget .id = 0x46504531

/-- A run is safe up to `k` steps when it answers a next state at each of them and every state on the way keeps the
invariant. -/
def SafeFor (s : State) : Nat → Prop
  | 0 => s.Inv
  | k + 1 => s.Inv ∧ ∃ t, step s = .next t ∧ SafeFor t k

/-- The words the engine has yet to complete: the one in flight and those in the FIFO, in order
(10_state.md R44, R45). -/
def State.pending (s : State) : List Word := s.inflight.toList ++ s.fifo

/-- How a command sequence ends (60_exceptions.md R300): with `ERR = 0` every command completed and `CMDCNT` counts
them, with `ERR = 1` the record says which command stopped it, after how many. -/
def EndsAsRecorded (s t : State) : Prop :=
  (t.error.err = false ∧ t.cmdcnt = s.cmdcnt + BitVec.ofNat 32 s.pending.length) ∨
    (t.error.err = true ∧ ∃ before w after, s.pending = before ++ w :: after ∧
      t.error.errcmd = w ∧ t.error.erridx = s.cmdcnt + BitVec.ofNat 32 before.length ∧ t.cmdcnt = t.error.erridx)

/-- A register that a command may read (10_state.md R41). -/
abbrev State.FValid (s : State) (i : FIdx) : Prop := s.validReg (.f i) = true

/-- A register that a command may read (10_state.md R41). -/
abbrev State.XValid (s : State) (i : XIdx) : Prop := s.validReg (.x i) = true

/-- What the completion of a command does beside its register and flag writes (10_state.md R45, R46, R55): `BUSY`
becomes 0, `CMDCNT` counts it, `DONE` is set when the FIFO is empty; nothing else changes. -/
structure Completed (s t : State) : Prop where
  inflight : t.inflight = none
  cmdcnt : t.cmdcnt = s.cmdcnt + 1
  done : t.done = (s.done || s.fifo.isEmpty)
  cfg : t.cfg = s.cfg
  fifo : t.fifo = s.fifo
  error : t.error = s.error
  ovf : t.ovf = s.ovf
  cmddrop : t.cmddrop = s.cmddrop
  accerr : t.accerr = s.accerr
  ieDone : t.ieDone = s.ieDone
  ieErr : t.ieErr = s.ieErr
  rstN : t.rstN = s.rstN
  reply : t.reply = s.reply
  turns : t.turns = s.turns

/-- The command completes and writes the element `a` to `F[d]`, and no other register and no flag. -/
structure WritesF (s t : State) (d : FIdx) (a : FElem) : Prop where
  completed : Completed s t
  dest : t.f[d] = ⟨a, true⟩
  others : ∀ i : Fin 16, i ≠ d → t.f[i] = s.f[i]
  x : t.x = s.x
  flag : t.tFlag = s.tFlag

/-- The command completes and writes the integer `v` to `X[d]`, and no other register and no flag. -/
structure WritesX (s t : State) (d : XIdx) (v : Nat) : Prop where
  completed : Completed s t
  dest : t.x[d] = ⟨v, true⟩
  others : ∀ i : Fin 16, i ≠ d → t.x[i] = s.x[i]
  f : t.f = s.f
  flag : t.tFlag = s.tFlag

/-- The command completes and writes the bit `b` to T, and no register. -/
structure WritesT (s t : State) (b : Bool) : Prop where
  completed : Completed s t
  flag : t.tFlag = b
  f : t.f = s.f
  x : t.x = s.x

/-- Error entry (60_exceptions.md R283) with a code and an operand record: the record is set, the FIFO is emptied,
`BUSY` becomes 0; no register, no flag, no counter and no other status or control bit changes. -/
structure EntersError (s t : State) (code : ErrCode) (o : Option RegName) : Prop where
  err : t.error.err = true
  ecode : t.error.ecode = code
  opvalid : t.error.opvalid = o.isSome
  opfile : t.error.opfile = (o.map RegName.isX).getD false
  opidx : t.error.opidx = (o.map RegName.index).getD 0
  errcmd : ∀ w, s.inflight = some w → t.error.errcmd = w
  erridx : t.error.erridx = s.cmdcnt
  fifo : t.fifo = []
  inflight : t.inflight = none
  f : t.f = s.f
  x : t.x = s.x
  flag : t.tFlag = s.tFlag
  cmdcnt : t.cmdcnt = s.cmdcnt
  done : t.done = s.done
  cfg : t.cfg = s.cfg
  ovf : t.ovf = s.ovf
  cmddrop : t.cmddrop = s.cmddrop
  accerr : t.accerr = s.accerr
  ieDone : t.ieDone = s.ieDone
  ieErr : t.ieErr = s.ieErr
  rstN : t.rstN = s.rstN
  reply : t.reply = s.reply
  turns : t.turns = s.turns

/-- The registers a command writes (30_encoding.md R104). -/
def destinations : Instr → List RegName
  | .nop => []
  | .zero d => [.f d]
  | .one d => [.f d]
  | .copy d _ => [.f d]
  | .ldc d _ => [.f d]
  | .tores d _ => [.f d]
  | .fromres d _ => [.x d]
  | .rdd d _ _ => [.x d]
  | .add d _ _ => [.f d]
  | .sub d _ _ => [.f d]
  | .neg d _ => [.f d]
  | .mul d _ _ => [.f d]
  | .sqr d _ => [.f d]
  | .imul d _ _ => [.f d]
  | .half d _ => [.f d]
  | .fred d _ => [.f d]
  | .pow d _ _ => [.f d]
  | .inv d _ => [.f d]
  | .sqrt d _ => [.f d]
  | .qr _ => []
  | .isz _ => []
  | .equ _ _ => []
  | .cswap d a _ _ => [.f d, .f a]
  | .cmov d _ _ _ => [.f d]

/-- The commands that write the flag T (30_encoding.md R104, 10_state.md R42). -/
def writesFlag : Instr → Bool
  | .qr _ => true
  | .isz _ => true
  | .equ _ _ => true
  | _ => false

/-- The engine of a running, well-formed build moves next, with the turns `rest` after it. -/
structure EngineMoves (s : State) (rest : List Turn) : Prop where
  build : s.cfg.wellFormed = true
  running : s.rstN = true
  turn : s.turns = [] ∧ rest = [] ∨ s.turns = .engine :: rest

/-- The host of a running, well-formed build makes an access next, with the turns `rest` after it. -/
structure HostMoves (s : State) (a : Access) (rest : List Turn) : Prop where
  build : s.cfg.wellFormed = true
  running : s.rstN = true
  turn : s.turns = .host a :: rest

/-- The offsets that the address map lists (20_memory.md R74). -/
def MappedOffset (c : Cfg) (off : Nat) : Prop :=
  (∃ k, k < 15 ∧ off = 4 * k) ∨
    (∃ j, j < c.xw ∧ off = 0x100 + 4 * j) ∨
    (∃ i j, i < 16 ∧ j < c.xw ∧ off = 0x1000 + 0x100 * i + 4 * j) ∨
    (∃ i j, i < 16 ∧ j < c.xw ∧ off = 0x2000 + 0x100 * i + 4 * j) ∨
    ∃ i, i < 16 ∧ off = 0x2000 + 0x100 * i + 0xFC

/-- The offsets that take a write: CTRL, STATUS, CMD and the X window (20_memory.md R74, R79, R81). -/
def WritableOffset (c : Cfg) (off : Nat) : Prop :=
  off = 0x010 ∨ off = 0x014 ∨ off = 0x028 ∨
    ∃ i j, i < 16 ∧ j < c.xw ∧ off = 0x1000 + 0x100 * i + 4 * j

/-- A field value is a non-zero square modulo `p` (44_inv_sqrt.md R248). -/
def NonzeroSquare (c : Cfg) (v : Nat) : Prop := v % c.p ≠ 0 ∧ ∃ y, y * y % c.p = v % c.p

end Sys2Proof.Machine
end

