-- ==== Sys2Proof/Certificates/Slice0/Obligations.lean ====
section
/-! DEFINITION. The statements for the provers. Each docstring names the rules of spec/ it formalises, or says that it
is the model's own. A statement about the state after a command holds for every state unless it names the invariant
`State.Inv`, which `Obligations.StepKeepsInvariant` states of every step. -/

open Sys2Proof Sys2Proof.Machine

/-! ## Encoding -/

/-- The worked encodings of 30_encoding.md R111: the assembly text gives the word, and the word and the command give
each other. -/
def Obligations.WorkedEncodingsBothWays : Prop :=
  ∀ row ∈ [("nop", (0x00000000 : Word), Instr.nop), ("tores f0, x0", 0x14000000, .tores 0 0),
      ("tores f1, x1", 0x14440000, .tores 1 1), ("add f2, f0, f1", 0x20804000, .add 2 0 1),
      ("mul f3, f0, f1", 0x2CC04000, .mul 3 0 1), ("imul f1, f0, #-5", 0x344000FB, .imul 1 0 (-5)),
      ("ldc f0, #3", 0x10000003, .ldc 0 3), ("pow f1, f0, x4", 0x40410000, .pow 1 0 4),
      ("cswap f0, f1, t", 0x58040002, .cswap 0 1 true false), ("fromres x2, f2", 0x18880000, .fromres 2 2)],
    assembleLine row.1 = some [row.2.1] ∧ decode row.2.1 = .ok row.2.2 ∧ encode row.2.2 = row.2.1

/-- Decoding the word of a well-formed command gives the command back, with every operand. -/
def Obligations.DecodeOfEncodeIsTheCommand : Prop :=
  ∀ i : Instr, i.wellFormed = true → decode (encode i) = .ok i

/-- Every legal word is the word of the one command it decodes to, which is well formed. -/
def Obligations.EncodeOfDecodeIsTheWord : Prop :=
  ∀ (w : Word) (i : Instr), decode w = .ok i → i.wellFormed = true ∧ encode i = w

/-- The opcode map (30_encoding.md R105): which words encode a mnemonic, and that at most one row matches a word. -/
def Obligations.OpcodeMapReadsEveryWord : Prop :=
  (∀ (w : Word) (o : Opcode), (∃ i, decode w = .ok i ∧ i.opcode = o) ↔
      w &&& o.row.mask = o.row.pattern ∧ (o = .cswap ∨ o = .cmov → w.extractLsb' 0 2 ≠ 3)) ∧
    ∀ (w : Word) (o₁ o₂ : Opcode), w &&& o₁.row.mask = o₁.row.pattern → w &&& o₂.row.mask = o₂.row.pattern → o₁ = o₂

/-- Which words are illegal, and what executing one does (30_encoding.md R106, 60_exceptions.md R282). -/
def Obligations.IllegalWordsEnterError : Prop :=
  (∀ w : Word, (∃ e, decode w = .error e) ↔
      0x18 ≤ fieldOp w ∨
        (∃ o, opcodeOfField (fieldOp w) = some o ∧ w &&& o.row.format.mustBeZero ≠ 0) ∨
        ((fieldOp w = 0x16 ∨ fieldOp w = 0x17) ∧ fieldS w = true ∧ fieldC w = true)) ∧
    ∀ (s : State) (rest : List Turn) (w : Word) (e : Illegal),
      EngineMoves s rest → s.inflight = some w → decode w = .error e →
      ∃ t, step s = .next t ∧ EntersError { s with turns := rest } t .illegal none

/-! ## The step -/

/-- When the engine moves with a word in flight that decodes to a command, the command is well formed and the step is
the command's meaning, at the state with the turn taken off. -/
def Obligations.StepRunsDecodedCommand : Prop :=
  ∀ (s : State) (rest : List Turn) (w : Word) (i : Instr),
    EngineMoves s rest → s.inflight = some w → decode w = .ok i →
    i.wellFormed = true ∧ step s = exec i { s with turns := rest }

/-- The engine begins the head of the FIFO when `BUSY = 0`, `ERR = 0` and `FIFOCNT > 0`, and else, with nothing in
flight, does nothing; a command in flight ends in that one move (10_state.md R44, R45; 60_exceptions.md R289, R299).
That beginning a command is one move of the engine and its execution the whole of the next is the model's choice
(notes/assumptions/4.md), within what 10_state.md R30 allows: a model "may treat the execution of one command as one
atomic engine step". -/
def Obligations.EngineBeginsHeadOfFifo : Prop :=
  ∀ (s : State) (rest : List Turn), EngineMoves s rest →
    (∀ w ws, s.busy = false → s.error.err = false → s.fifo = w :: ws →
      step s = .next { s with inflight := some w, fifo := ws, turns := rest }) ∧
    (s.busy = false → (s.error.err = true ∨ s.fifo = []) → step s = .next { s with turns := rest }) ∧
    (s.busy = true → ∃ t, step s = .next t ∧ t.busy = false)

/-- Every state of a well-formed build has a next state, with no fault and no refusal; a configuration that breaks
00_scope.md R9 is refused, not run. -/
def Obligations.WellFormedBuildStepsOthersAreRefused : Prop :=
  ∀ s : State,
    (s.cfg.wellFormed = true → ∃ t, step s = .next t) ∧
    (s.cfg.wellFormed = false → step s = .refused .illFormedBuild)

/-- The builds the model runs, condition by condition: those that meet 00_scope.md R9, within the ranges of R8. That the
ranges of R8 which R9 does not repeat (`W`, `N`, `FIFO_DEPTH`, the value of `MCONST` in PM and GEN) are conditions too is
the model's choice (notes/assumptions/2.md); WF5 holds of every GM build by the form of `GM_REDUCE`
(notes/assumptions/3.md). -/
def Obligations.WellFormedBuildsMeetR9AndTheRangesOfR8 : Prop :=
  ∀ c : Cfg, c.wellFormed = true ↔
    (1 ≤ c.w ∧ c.w ≤ 64 ∧ 1 ≤ c.n ∧ 1 ≤ c.fifoDepth ∧ c.fifoDepth ≤ 255) ∧
    (c.p.Prime ∧ c.p % 2 = 1 ∧ 128 < c.p ∧ 2 ^ (c.nbits - 1) ≤ c.p ∧ c.p < 2 ^ c.nbits ∧ c.mod8 = c.p % 8) ∧
    (2 ≤ c.cap ∧ c.cap < 2 ^ 32 ∧ c.cap * c.p ≤ 2 ^ (c.n * c.w)) ∧
    (c.shape = .pm → c.p + c.c = 2 ^ c.nbits ∧ 1 ≤ c.c ∧ c.c * c.c * c.cap + 2 * c.c ≤ 2 ^ c.nbits ∧ c.mconst = c.c) ∧
    (c.shape = .mf → c.p + 1 = c.mconst * 2 ^ (c.w * (c.n - 1)) ∧ 1 ≤ c.mconst ∧ c.mconst < 2 ^ c.w) ∧
    (c.shape = .gen → c.mconst < 2 ^ c.w ∧ 2 ^ c.w ∣ c.p * c.mconst + 1) ∧
    (∀ k : Fin 16, c.crom[k] < c.p) ∧
    c.n * c.w ≤ 2016

/-! ## Reset -/

/-- The reset values of 10_state.md R65, in every build: after power-on reset, after a soft reset and after the pin `rst_n`
falls; the build constants, and what a host reads of them, are not affected. -/
def Obligations.ResetLeavesTheValuesOfR65 : Prop :=
  (∀ c : Cfg, HasResetValues (State.resetOf c) ∧ (State.resetOf c).cfg = c) ∧
    ∀ (s : State) (rest : List Turn), s.cfg.wellFormed = true →
      ((∃ data, HostMoves s (.write 0x010 .bits32 data) rest ∧ data.getLsbD 0 = true) ∨
        s.turns = .resetPin false :: rest) →
      ∃ t, step s = .next t ∧ HasResetValues t ∧ t.cfg = s.cfg ∧
        ∀ target ∈ [Target.id, .cfg0, .cfg1, .capr, .mconstlo, .mconsthi], t.readTarget target = s.readTarget target

/-- A soft reset, in every engine state and whatever the other bits of the write: every piece of state at its reset
value, the command in flight abandoned, the build kept (70_reset_and_hazards.md R321). That the turns still to come are
kept is the model's reading (notes/assumptions/15.md). -/
def Obligations.SoftResetRestoresResetValues : Prop :=
  ∀ (s : State) (rest : List Turn) (data : Word),
    HostMoves s (.write 0x010 .bits32 data) rest → data.getLsbD 0 = true →
    step s = .next { State.resetOf s.cfg with turns := rest }

/-- The reset pin: low puts every piece of state at its reset value; while it is low no turn of the host or the engine
changes anything but the turns; high releases the block, idle, with no error (70_reset_and_hazards.md R320; that an
access then returns no data is the model's choice, notes/assumptions/5.md). -/
def Obligations.ResetPinHoldsResetValues : Prop :=
  ∀ (s : State) (rest : List Turn), s.cfg.wellFormed = true →
    (s.turns = .resetPin false :: rest →
      step s = .next { State.resetOf s.cfg with rstN := false, turns := rest }) ∧
    (s = { State.resetOf s.cfg with rstN := false, turns := s.turns } →
      (∀ a, s.turns = .host a :: rest → step s = .next { s with turns := rest }) ∧
      (s.turns = .engine :: rest → step s = .next { s with turns := rest }) ∧
      (s.turns = .resetPin true :: rest → step s = .next { State.resetOf s.cfg with turns := rest }))

/-! ## Invariants of the machine -/

/-- The invariant holds after reset, in every well-formed build and in the default one. -/
def Obligations.ResetMeetsInvariant : Prop :=
  (∀ c : Cfg, c.wellFormed = true → (State.resetOf c).Inv) ∧ State.reset.Inv

/-- Every step keeps the invariant, whatever the host does (10_state.md R33, R40, R44, R48). -/
def Obligations.StepKeepsInvariant : Prop :=
  ∀ s t : State, s.Inv → step s = .next t → t.Inv

/-- From a state that meets the invariant, a run goes on for any number of steps and every state on the way meets
it; its command sequence ends within a bound, at the first state with `IDLE = 1` after the last CMD write, and with no
turn left to the host the counter or the error record says how it went (60_exceptions.md R300; that "after the last CMD
write" is read off the turns still to come is notes/assumptions/21.md, the bound counts the moves of
notes/assumptions/4.md). -/
def Obligations.RunsStaySafeAndEnd : Prop :=
  (∀ t : State, t.ended = true ↔
      (t.readTarget .status).getLsbD 1 = true ∧ ∀ data, Turn.host (.write 0x028 .bits32 data) ∉ t.turns) ∧
    ∀ (s : State) (k : Nat), s.Inv →
      SafeFor s k ∧
      (∃ t, runToEnd (s.turns.length + 2 * s.cfg.fifoDepth + 1) s = some t) ∧
      ∀ t, runToEnd k s = some t →
        t.ended = true ∧
        (∃ j, j ≤ k ∧ core.run j s = .next t ∧
          ∀ i, i < j → ∀ u : State, core.run i s = .next u → u.ended = false) ∧
        (s.turns = [] → s.error.err = false → EndsAsRecorded s t)

/-- No step changes a build constant, nor what a host reads of one (70_reset_and_hazards.md R323, 10_state.md R43). -/
def Obligations.BuildConstantsNeverChange : Prop :=
  ∀ s t : State, step s = .next t →
    t.cfg = s.cfg ∧
    (∀ target ∈ [Target.id, .cfg0, .cfg1, .capr, .mconstlo, .mconsthi], t.readTarget target = s.readTarget target) ∧
    (∀ j, t.readTarget (.mod j) = s.readTarget (.mod j)) ∧
    ∀ k, romEntry t.cfg k = romEntry s.cfg k

/-- Only a host write of CLRERR or SRST, or the reset pin, ends the error state (60_exceptions.md R288, R289). -/
def Obligations.OnlyClrerrOrResetEndsError : Prop :=
  ∀ s t : State, step s = .next t → s.error.err = true → t.error.err = false →
    ∃ rest,
      (∃ data, s.turns = .host (.write 0x010 .bits32 data) :: rest ∧ (data.getLsbD 0 = true ∨ data.getLsbD 1 = true)) ∨
        s.turns = .resetPin false :: rest

/-- No access of the host changes the F file, but for a soft reset (20_memory.md R77). -/
def Obligations.HostNeverWritesF : Prop :=
  ∀ (s t : State) (a : Access) (rest : List Turn),
    s.turns = .host a :: rest → step s = .next t → t.f ≠ s.f →
    ∃ data, a = .write 0x010 .bits32 data ∧ data.getLsbD 0 = true

/-- A word in flight, legal or not, leaves the engine in one move: the command completes, and then it is counted, or
it enters an error, and then the state is the state before it plus the changes of error entry (10_state.md R46,
60_exceptions.md R287). -/
def Obligations.CommandCompletesOrEntersError : Prop :=
  ∀ (s : State) (rest : List Turn) (w : Word), EngineMoves s rest → s.inflight = some w →
    ∃ t, step s = .next t ∧
      (Completed { s with turns := rest } t ∨
        ∃ code o, code ≠ .none ∧ EntersError { s with turns := rest } t code o)

/-- A command leaves every register it does not name as a destination unchanged, and T unless it is a test
(30_encoding.md R104, 10_state.md R42). -/
def Obligations.CommandsWriteOnlyTheirDestinations : Prop :=
  ∀ (i : Instr) (s t : State), exec i s = .next t →
    (∀ r : Fin 16, .f r ∉ destinations i → t.f[r] = s.f[r]) ∧
    (∀ r : Fin 16, .x r ∉ destinations i → t.x[r] = s.x[r]) ∧
    (writesFlag i = false → t.tFlag = s.tFlag)

/-! ## Errors -/

/-- An unwritten source raises `E_UNINIT` naming the first one in the order A, B, D (60_exceptions.md R281,
30_encoding.md R104, R108): `r` is not valid, and every source checked before it is. -/
def Obligations.UnwrittenSourceEntersError : Prop :=
  ∀ (i : Instr) (s : State) (before after : List RegName) (r : RegName),
    sources i = before ++ r :: after → (∀ q ∈ before, s.validReg q = true) → s.validReg r = false →
    ∃ t, exec i s = .next t ∧ EntersError s t .uninit (some r)

/-- `E_RANGE` is raised in two places, each on the X operand of field A (60_exceptions.md R284); in a build with
`MOD8 = 1` SQRT raises `E_SQRT_UNSUP` once its operand check passes, whatever the operand (R285). -/
def Obligations.OperandValuesThatEnterError : Prop :=
  (∀ (s : State) (d : FIdx) (a : XIdx), s.XValid a → s.cfg.p ≤ s.xval a →
      ∃ t, exec (.tores d a) s = .next t ∧ EntersError s t .range (some (.x a))) ∧
    (∀ (s : State) (d a b : XIdx), s.XValid a → s.XValid b →
      s.cfg.cap * s.cfg.p ^ 2 < s.xval a * 2 ^ s.cfg.gw + s.xval b →
      ∃ t, exec (.rdd d a b) s = .next t ∧ EntersError s t .range (some (.x a))) ∧
    ∀ (s : State) (d a : FIdx), s.cfg.mod8 = 1 → s.FValid a →
      ∃ t, exec (.sqrt d a) s = .next t ∧ EntersError s t .sqrtUnsup none

/-- A write to CTRL with `SRST = 0` (10_state.md R54): the enables take the written bits; `CLRERR = 1` clears the error
state and nothing else (60_exceptions.md R288). -/
def Obligations.CtrlWriteClearsErrorAndSetsEnables : Prop :=
  ∀ (s : State) (rest : List Turn) (data : Word),
    HostMoves s (.write 0x010 .bits32 data) rest → data.getLsbD 0 = false →
    step s = .next { s with
      error := if data.getLsbD 1 then ⟨false, .none, false, false, 0, 0, 0⟩ else s.error
      ieDone := data.getLsbD 2
      ieErr := data.getLsbD 3
      reply := none
      turns := rest }

/-! ## The host window -/

/-- The address map (20_memory.md R74): an access reaches something iff it is 32 bits wide, aligned and at a listed
offset, and what it reaches is what the map lists there, row by row. That this holds of a narrow or misaligned access to
STATUS or CMD too is the model's reading of R72 and R73 against the "never refused" of R79 (notes/assumptions/13.md). -/
def Obligations.AddressMapIsThatOfR74 : Prop :=
  ∀ (c : Cfg) (addr : BitVec 14) (size : AccessSize), c.wellFormed = true →
    ((accessTarget c addr size).isSome = true ↔
      size = .bits32 ∧ addr.toNat % 4 = 0 ∧ MappedOffset c addr.toNat) ∧
    (size = .bits32 →
      (∀ row ∈ [(0x000, Target.id), (0x004, .cfg0), (0x008, .cfg1), (0x00C, .capr), (0x010, .ctrl), (0x014, .status),
          (0x018, .errinfo), (0x01C, .errcmd), (0x020, .erridx), (0x024, .cmdcnt), (0x028, .cmd), (0x02C, .xvalid),
          (0x030, .fvalid), (0x034, .mconstlo), (0x038, .mconsthi)],
        addr.toNat = row.1 → accessTarget c addr size = some row.2) ∧
      (∀ j, j < c.xw → addr.toNat = 0x100 + 4 * j → accessTarget c addr size = some (.mod j)) ∧
      (∀ (i : Fin 16) (j : Nat), j < c.xw → addr.toNat = 0x1000 + 0x100 * i.val + 4 * j →
        accessTarget c addr size = some (.xword i j)) ∧
      (∀ (i : Fin 16) (j : Nat), j < c.xw → addr.toNat = 0x2000 + 0x100 * i.val + 4 * j →
        accessTarget c addr size = some (.fword i j)) ∧
      (∀ i : Fin 16, addr.toNat = 0x2000 + 0x100 * i.val + 0xFC → accessTarget c addr size = some (.fexcess i)))

/-- A refused access (20_memory.md R79): a refused read returns 0 and sets ACCERR, a refused write sets ACCERR, and
neither changes anything else. That a narrow or misaligned read of CMD or write to STATUS is among the refused is the
model's reading of R72 and R73 against the "never refused" of R79 (notes/assumptions/13.md). -/
def Obligations.RefusedAccessOnlySetsAccerr : Prop :=
  (∀ (s : State) (rest : List Turn) (addr : BitVec 14) (size : AccessSize),
      HostMoves s (.read addr size) rest →
      (size ≠ .bits32 ∨ addr.toNat % 4 ≠ 0 ∨ ¬ MappedOffset s.cfg addr.toNat ∨
        (s.idle = false ∧ 0x1000 ≤ addr.toNat ∧ addr.toNat < 0x3000)) →
      step s = .next { s with accerr := true, reply := some 0, turns := rest }) ∧
    ∀ (s : State) (rest : List Turn) (addr : BitVec 14) (size : AccessSize) (data : Word),
      HostMoves s (.write addr size data) rest →
      (size ≠ .bits32 ∨ addr.toNat % 4 ≠ 0 ∨ ¬ WritableOffset s.cfg addr.toNat ∨
        (s.idle = false ∧ 0x1000 ≤ addr.toNat ∧ addr.toNat < 0x3000)) →
      step s = .next { s with accerr := true, reply := none, turns := rest }

/-- What a host read does, in every case (20_memory.md R79 to R81): at a mapped offset it returns what stands there and
changes nothing else, unless the offset lies in a data window that is not open; otherwise it returns 0 and sets ACCERR.
Which accesses reach what is `Obligations.AddressMapIsThatOfR74`. -/
def Obligations.ReadsHaveNoSideEffect : Prop :=
  ∀ (s : State) (rest : List Turn) (addr : BitVec 14) (size : AccessSize),
    HostMoves s (.read addr size) rest →
    (∀ target, accessTarget s.cfg addr size = some target → (s.idle = true ∨ addr.toNat < 0x1000) →
      step s = .next { s with reply := some (s.readTarget target), turns := rest }) ∧
    (accessTarget s.cfg addr size = none ∨ (s.idle = false ∧ 0x1000 ≤ addr.toNat) →
      step s = .next { s with accerr := true, reply := some 0, turns := rest }) ∧
    ∃ v, step s = .next { s with reply := some v, turns := rest } ∨
      (v = 0 ∧ step s = .next { s with accerr := true, reply := some v, turns := rest })

/-- A write to CMD (20_memory.md R82). -/
def Obligations.CmdWriteQueuesOrDrops : Prop :=
  ∀ (s : State) (rest : List Turn) (v : Word), HostMoves s (.write 0x028 .bits32 v) rest →
    (s.error.err = true → step s = .next { s with cmddrop := true, reply := none, turns := rest }) ∧
    (s.error.err = false → s.fifo.length = s.cfg.fifoDepth →
      step s = .next { s with ovf := true, reply := none, turns := rest }) ∧
    (s.error.err = false → s.fifo.length ≠ s.cfg.fifoDepth →
      step s = .next { s with fifo := s.fifo ++ [v], reply := none, turns := rest })

/-- A write to STATUS changes only the W1C bits (10_state.md R55). -/
def Obligations.StatusWriteClearsWrittenBits : Prop :=
  ∀ (s : State) (rest : List Turn) (data : Word), HostMoves s (.write 0x014 .bits32 data) rest →
    ∃ t, step s = .next t ∧
      (t.done = true ↔ s.done = true ∧ data.getLsbD 4 = false) ∧
      (t.ovf = true ↔ s.ovf = true ∧ data.getLsbD 5 = false) ∧
      (t.cmddrop = true ↔ s.cmddrop = true ∧ data.getLsbD 6 = false) ∧
      (t.accerr = true ↔ s.accerr = true ∧ data.getLsbD 7 = false) ∧
      t = { s with done := t.done, ovf := t.ovf, cmddrop := t.cmddrop, accerr := t.accerr, reply := none, turns := rest }

/-- The fields of the registers that change: STATUS (10_state.md R55), ERRINFO, ERRCMD and ERRIDX (R56, R57, R58), CMDCNT
(R59), CTRL with its bits that read 0 (R54), CMD, which reads 0 (R60), XVALID and FVALID (R61, R62); and ID (R50). -/
def Obligations.RegistersShowTheirFields : Prop :=
  ∀ s : State, s.Inv →
    s.readTarget .id = 0x46504531 ∧
    s.readTarget .cmd = 0 ∧
    s.readTarget .cmdcnt = s.cmdcnt ∧
    s.readTarget .errcmd = s.error.errcmd ∧
    s.readTarget .erridx = s.error.erridx ∧
    (s.error.err = false →
      s.readTarget .errinfo = 0 ∧ s.readTarget .errcmd = 0 ∧ s.readTarget .erridx = 0) ∧
    (s.readTarget .ctrl).extractLsb' 0 2 = 0 ∧
    (s.readTarget .ctrl).getLsbD 2 = s.ieDone ∧
    (s.readTarget .ctrl).getLsbD 3 = s.ieErr ∧
    (s.readTarget .ctrl).extractLsb' 4 28 = 0 ∧
    (∀ i : Fin 16, (s.readTarget .xvalid).getLsbD i.val = s.x[i].valid) ∧
    (s.readTarget .xvalid).extractLsb' 16 16 = 0 ∧
    (∀ i : Fin 16, (s.readTarget .fvalid).getLsbD i.val = s.f[i].valid) ∧
    (s.readTarget .fvalid).extractLsb' 16 16 = 0 ∧
    ((s.readTarget .errinfo).extractLsb' 0 4).toNat = s.error.ecode.code ∧
    ((s.readTarget .errinfo).extractLsb' 4 4).toNat = s.error.opidx.val ∧
    (s.readTarget .errinfo).getLsbD 8 = s.error.opfile ∧
    (s.readTarget .errinfo).getLsbD 9 = s.error.opvalid ∧
    (s.readTarget .errinfo).extractLsb' 10 22 = 0 ∧
    (s.readTarget .status).getLsbD 0 = s.inflight.isSome ∧
    (s.readTarget .status).getLsbD 1 = decide (s.inflight = none ∧ s.fifo = []) ∧
    (s.readTarget .status).getLsbD 2 = s.error.err ∧
    (s.readTarget .status).getLsbD 3 = s.tFlag ∧
    (s.readTarget .status).getLsbD 4 = s.done ∧
    (s.readTarget .status).getLsbD 5 = s.ovf ∧
    (s.readTarget .status).getLsbD 6 = s.cmddrop ∧
    (s.readTarget .status).getLsbD 7 = s.accerr ∧
    ((s.readTarget .status).extractLsb' 8 8).toNat = s.fifo.length ∧
    (s.readTarget .status).extractLsb' 16 16 = 0

/-- The interrupt output as the registers a host reads show it (10_state.md R64). -/
def Obligations.IrqFollowsStatusAndCtrl : Prop :=
  ∀ s : State, s.Inv →
    (s.irq = true ↔
      (s.readTarget .status).getLsbD 4 = true ∧ (s.readTarget .ctrl).getLsbD 2 = true ∨
        (s.readTarget .status).getLsbD 2 = true ∧ (s.readTarget .ctrl).getLsbD 3 = true) ∧
    (State.resetOf s.cfg).irq = false

/-- The fields of the constant registers (10_state.md R51, R52, R53, R63). -/
def Obligations.ConstantRegistersShowTheBuild : Prop :=
  ∀ s : State, s.cfg.wellFormed = true →
    ((s.readTarget .cfg0).extractLsb' 0 2).toNat = s.cfg.shape.code ∧
    ((s.readTarget .cfg0).extractLsb' 2 3).toNat = s.cfg.p % 8 ∧
    (s.readTarget .cfg0).extractLsb' 5 3 = 0 ∧
    ((s.readTarget .cfg0).extractLsb' 8 8).toNat = s.cfg.fifoDepth ∧
    ((s.readTarget .cfg0).extractLsb' 16 16).toNat = s.cfg.nbits ∧
    ((s.readTarget .cfg1).extractLsb' 0 7).toNat = s.cfg.w ∧
    (s.readTarget .cfg1).extractLsb' 7 9 = 0 ∧
    ((s.readTarget .cfg1).extractLsb' 16 16).toNat = s.cfg.gw ∧
    s.cfg.n = s.cfg.gw / s.cfg.w ∧
    (s.readTarget .capr).toNat = s.cfg.cap ∧
    (s.cfg.shape ≠ .gm →
      (s.readTarget .mconstlo).toNat + 2 ^ 32 * (s.readTarget .mconsthi).toNat = s.cfg.mconst % 2 ^ 64) ∧
    (s.cfg.shape = .gm → s.readTarget .mconstlo = 0 ∧ s.readTarget .mconsthi = 0)

/-- A host write of word `j` of `X[i]` while IDLE (20_memory.md R76): bit by bit, with bits at or above `GW` discarded,
and the valid bit set; no other register and nothing else changes. -/
def Obligations.XWindowWriteReplacesOneWord : Prop :=
  ∀ (s : State) (rest : List Turn) (addr : BitVec 14) (i : XIdx) (j : Nat) (data : Word),
    HostMoves s (.write addr .bits32 data) rest → s.idle = true →
    j < s.cfg.xw → addr.toNat = 0x1000 + 0x100 * i.val + 4 * j →
    ∃ v, step s = .next { s with x := s.x.set i ⟨v, true⟩, reply := none, turns := rest } ∧
      ∀ k, v.testBit k =
        (decide (k < s.cfg.gw) && if k / 32 = j then data.getLsbD (k % 32) else (s.xval i).testBit k)

/-- Host reads of the X, F and modulus windows while they are open (20_memory.md R75, R76, R77): the word's bits below
`GW`, and the excess of an F register; nothing else changes, and no valid bit is needed. -/
def Obligations.WindowReadsReturnTheWord : Prop :=
  ∀ (s : State) (rest : List Turn) (addr : BitVec 14) (i : Fin 16) (j : Nat),
    HostMoves s (.read addr .bits32) rest → j < s.cfg.xw →
    (addr.toNat = 0x100 + 4 * j →
      ∃ v : Word, step s = .next { s with reply := some v, turns := rest } ∧
        ∀ b, b < 32 → v.getLsbD b = (decide (32 * j + b < s.cfg.gw) && s.cfg.p.testBit (32 * j + b))) ∧
    (s.idle = true → addr.toNat = 0x1000 + 0x100 * i.val + 4 * j →
      ∃ v : Word, step s = .next { s with reply := some v, turns := rest } ∧
        ∀ b, b < 32 → v.getLsbD b = (decide (32 * j + b < s.cfg.gw) && s.x[i].value.testBit (32 * j + b))) ∧
    (s.idle = true → addr.toNat = 0x2000 + 0x100 * i.val + 4 * j →
      ∃ v : Word, step s = .next { s with reply := some v, turns := rest } ∧
        ∀ b, b < 32 → v.getLsbD b = (decide (32 * j + b < s.cfg.gw) && s.f[i].elem.g.testBit (32 * j + b))) ∧
    (s.idle = true → addr.toNat = 0x2000 + 0x100 * i.val + 0xFC → s.f[i].elem.e < 2 ^ 32 →
      ∃ v : Word, step s = .next { s with reply := some v, turns := rest } ∧ v.toNat = s.f[i].elem.e)

/-! ## The reduction engine -/

/-- The contract of the reduction engine (41_reduction.md R152), with `Rinv` the inverse of the radix, and what it
gives for a product of two register values. -/
def Obligations.ReductionMeetsItsContract : Prop :=
  ∀ (c : Cfg) (d : Nat), c.wellFormed = true → d ≤ c.cap * c.p ^ 2 →
    c.r * rInv c % c.p = 1 ∧
    reduce c d < 2 * c.p ∧
    (c.shape = .pm ∨ c.shape = .gm → reduce c d % c.p = d % c.p) ∧
    (c.shape = .mf ∨ c.shape = .gen → reduce c d % c.p = d * rInv c % c.p) ∧
    ∀ ga gb, d = ga * gb → val c (reduce c d) = val c ga * val c gb % c.p

/-- The digit loops of the two Montgomery variants compute the closed form (41_reduction.md R154, R155). For the
Montgomery-friendly variant two digits are asked: with one, the condition of 00_scope.md R9 WF4 does not give
`p = -1 (mod 2^W)` (notes/assumptions/9.md). -/
def Obligations.DigitLoopsAreMontgomery : Prop :=
  ∀ (c : Cfg) (d : Nat), c.wellFormed = true →
    (c.shape = .gen → genReduce c d = mont c d) ∧
    (c.shape = .mf → 2 ≤ c.n → mfDigitSerial c d = mont c d)

/-- The closed form of Montgomery reduction is an exact division, with the properties (a) to (f) of 41_reduction.md
R156. -/
def Obligations.MontgomeryClosedForm : Prop :=
  ∀ (c : Cfg) (d : Nat), c.wellFormed = true →
    (∃ m, m < c.r ∧ (m * c.p + d) % c.r = 0 ∧ mont c d * c.r = d + m * c.p) ∧
    mont c d % c.p = d * rInv c % c.p ∧
    mont c d * c.r < d + c.p * c.r ∧
    (d ≤ c.cap * c.p ^ 2 → mont c d < 2 * c.p) ∧
    (d < c.r → mont c d ≤ c.p ∧ (mont c d = c.p ↔ d ≠ 0 ∧ c.p ∣ d)) ∧
    mont c 0 = 0 ∧
    mont c c.r2 = c.r % c.p

/-! ## The commands -/

/-- The commands that read no register: NOP writes nothing (45_utility.md R270); ZERO, ONE and LDC write the zero
element, the identity, and the residue form of a ROM entry (R266, R268; 40_residue.md R134). -/
def Obligations.CommandsWithoutSourcesComplete : Prop :=
  ∀ (s : State) (d : FIdx) (k : Fin 16),
    (∃ t, exec .nop s = .next t ∧ Completed s t ∧ t.f = s.f ∧ t.x = s.x ∧ t.tFlag = s.tFlag) ∧
    (∃ t, exec (.zero d) s = .next t ∧ WritesF s t d ⟨0, 1⟩) ∧
    (∃ t, exec (.one d) s = .next t ∧ WritesF s t d ⟨rep s.cfg 1, 1⟩ ∧
      (s.Inv → val s.cfg t.f[d].elem.g = 1 ∧ t.f[d].elem.canonical s.cfg = true)) ∧
    (∃ t, exec (.ldc d k) s = .next t ∧ WritesF s t d (toResidue s.cfg s.cfg.crom[k]) ∧
      (s.Inv → val s.cfg t.f[d].elem.g = s.cfg.crom[k] ∧ t.f[d].elem.bounded s.cfg = true))

/-- COPY is exact: value and excess (45_utility.md R264). -/
def Obligations.CopyIsExact : Prop :=
  ∀ (s : State) (d a : FIdx), s.FValid a →
    ∃ t, exec (.copy d a) s = .next t ∧ WritesF s t d ⟨s.f[a].elem.g, s.f[a].elem.e⟩

/-- TORES of an integer below `p` (40_residue.md R130, R131): the excess its shape records, and an element whose field
value is the integer. -/
def Obligations.ToresLoadsTheInteger : Prop :=
  ∀ (s : State) (d : FIdx) (a : XIdx), s.XValid a → s.xval a < s.cfg.p →
    ∃ t, exec (.tores d a) s = .next t ∧
      WritesF s t d
        (if s.cfg.shape = .pm ∨ s.cfg.shape = .gm then ⟨s.xval a, 1⟩ else ⟨reduce s.cfg (s.xval a * s.cfg.r2), 2⟩) ∧
      (s.Inv → val s.cfg t.f[d].elem.g = s.xval a ∧ t.f[d].elem.bounded s.cfg = true)

/-- FROMRES (40_residue.md R132, R133): the value itself in the shape-based variants; in the Montgomery variants one
reduction, at most `p`, and equal to `p` exactly for a non-zero multiple of `p`; the field value itself when the source
is below `p`. -/
def Obligations.FromresReadsTheValue : Prop :=
  ∀ (s : State) (d : XIdx) (a : FIdx), s.FValid a →
    ∃ t, exec (.fromres d a) s = .next t ∧ WritesX s t d (fromResidue s.cfg (s.felem a)) ∧
      (s.Inv →
        t.x[d].value % s.cfg.p = val s.cfg (s.felem a).g ∧
        ((s.felem a).g < s.cfg.p → t.x[d].value = val s.cfg (s.felem a).g) ∧
        (s.cfg.shape = .pm ∨ s.cfg.shape = .gm → t.x[d].value = (s.felem a).g) ∧
        (s.cfg.shape = .mf ∨ s.cfg.shape = .gen →
          t.x[d].value ≤ s.cfg.p ∧ (t.x[d].value = s.cfg.p ↔ (s.felem a).g ≠ 0 ∧ s.cfg.p ∣ (s.felem a).g)))

/-- TORES and then FROMRES give the integer back (40_residue.md R135). -/
def Obligations.ToresThenFromresIsTheInteger : Prop :=
  ∀ (s : State) (d : FIdx) (a e : XIdx), s.Inv → s.XValid a → s.xval a < s.cfg.p →
    ∃ t u, exec (.tores d a) s = .next t ∧ exec (.fromres e d) t = .next u ∧
      WritesX t u e (s.xval a)

/-- RDD within the contract (41_reduction.md R157): the reduction of the double-width integer. -/
def Obligations.RddReducesTheDoubleWord : Prop :=
  ∀ (s : State) (d a b : XIdx), s.XValid a → s.XValid b →
    s.xval a * 2 ^ s.cfg.gw + s.xval b ≤ s.cfg.cap * s.cfg.p ^ 2 →
    ∃ t, exec (.rdd d a b) s = .next t ∧
      WritesX s t d (reduce s.cfg (s.xval a * 2 ^ s.cfg.gw + s.xval b)) ∧
      (s.Inv → t.x[d].value < 2 * s.cfg.p ∧
        (if s.cfg.shape = .pm ∨ s.cfg.shape = .gm then t.x[d].value else t.x[d].value * s.cfg.r) % s.cfg.p =
          (s.xval a * 2 ^ s.cfg.gw + s.xval b) % s.cfg.p)

/-- ADD (42_arith.md R171, R172): sum of values and excesses, fully reduced when the excess passes `CAP`. -/
def Obligations.AddWritesTheSum : Prop :=
  ∀ (s : State) (d a b : FIdx), s.FValid a → s.FValid b →
    ∃ t, exec (.add d a b) s = .next t ∧
      WritesF s t d
        (if (s.felem a).e + (s.felem b).e > s.cfg.cap then ⟨((s.felem a).g + (s.felem b).g) % s.cfg.p, 1⟩
          else ⟨(s.felem a).g + (s.felem b).g, (s.felem a).e + (s.felem b).e⟩) ∧
      (s.Inv → t.f[d].elem.bounded s.cfg = true ∧
        val s.cfg t.f[d].elem.g = (val s.cfg (s.felem a).g + val s.cfg (s.felem b).g) % s.cfg.p)

/-- NEG (42_arith.md R175, R176): `k*p - g` with excess `k`, the least power of two at or above the excess, fully
reduced when `k` passes `CAP`. -/
def Obligations.NegWritesTheNegative : Prop :=
  ∀ (s : State) (d a : FIdx), s.FValid a →
    ∃ t, exec (.neg d a) s = .next t ∧
      WritesF s t d
        (if nextpow2 (s.felem a).e > s.cfg.cap then ⟨(nextpow2 (s.felem a).e * s.cfg.p - (s.felem a).g) % s.cfg.p, 1⟩
          else ⟨nextpow2 (s.felem a).e * s.cfg.p - (s.felem a).g, nextpow2 (s.felem a).e⟩) ∧
      (s.Inv → (s.felem a).g ≤ nextpow2 (s.felem a).e * s.cfg.p ∧ t.f[d].elem.bounded s.cfg = true ∧
        (val s.cfg t.f[d].elem.g + val s.cfg (s.felem a).g) % s.cfg.p = 0)

/-- SUB (42_arith.md R178, R179): `add(a, neg(b))`, each with its own capacity check; the excess is
`ea + nextpow2(eb)` when neither fires. -/
def Obligations.SubWritesTheDifference : Prop :=
  ∀ (s : State) (d a b : FIdx), s.FValid a → s.FValid b →
    ∃ t, exec (.sub d a b) s = .next t ∧
      WritesF s t d (addElem s.cfg (s.felem a) (negElem s.cfg (s.felem b))) ∧
      (nextpow2 (s.felem b).e ≤ s.cfg.cap → (s.felem a).e + nextpow2 (s.felem b).e ≤ s.cfg.cap →
        t.f[d].elem.e = (s.felem a).e + nextpow2 (s.felem b).e) ∧
      (s.Inv → t.f[d].elem.bounded s.cfg = true ∧
        (val s.cfg t.f[d].elem.g + val s.cfg (s.felem b).g) % s.cfg.p = val s.cfg (s.felem a).g)

/-- MUL (42_arith.md R181, R182; 10_state.md R34): a copy of operand A is fully reduced when the excesses multiply past
`CAP`; the result has excess 2, lies below `2p` and represents the product. -/
def Obligations.MulWritesTheProduct : Prop :=
  ∀ (s : State) (d a b : FIdx), s.FValid a → s.FValid b →
    ∃ t, exec (.mul d a b) s = .next t ∧
      WritesF s t d
        (if (s.felem a).e * (s.felem b).e > s.cfg.cap then ⟨reduce s.cfg ((s.felem a).g % s.cfg.p * (s.felem b).g), 2⟩
          else ⟨reduce s.cfg ((s.felem a).g * (s.felem b).g), 2⟩) ∧
      (s.Inv → t.f[d].elem.g < 2 * s.cfg.p ∧
        val s.cfg t.f[d].elem.g = val s.cfg (s.felem a).g * val s.cfg (s.felem b).g % s.cfg.p)

/-- SQR (42_arith.md R186, R187): when the excess squared passes `CAP` both factors are reduced; the result has excess
2, lies below `2p` and represents the square. -/
def Obligations.SqrWritesTheSquare : Prop :=
  ∀ (s : State) (d a : FIdx), s.FValid a →
    ∃ t, exec (.sqr d a) s = .next t ∧
      WritesF s t d
        (if (s.felem a).e * (s.felem a).e > s.cfg.cap
          then ⟨reduce s.cfg ((s.felem a).g % s.cfg.p * ((s.felem a).g % s.cfg.p)), 2⟩
          else ⟨reduce s.cfg ((s.felem a).g * (s.felem a).g), 2⟩) ∧
      (s.Inv → t.f[d].elem.g < 2 * s.cfg.p ∧
        val s.cfg t.f[d].elem.g = val s.cfg (s.felem a).g * val s.cfg (s.felem a).g % s.cfg.p)

/-- Squaring consistency (42_arith.md R188): `sqr(a)` and `mul(a, a)` agree in field value and excess, and bit for bit
while the capacity check does not fire; when it fires they can differ, as the rule's example in GEN7 does. -/
def Obligations.SqrAgreesWithMul : Prop :=
  (∀ (c : Cfg) (a : FElem), c.wellFormed = true → a.bounded c = true →
    val c (sqrElem c a).g = val c (mulElem c a a).g ∧ (sqrElem c a).e = 2 ∧ (mulElem c a a).e = 2 ∧
    (a.e * a.e ≤ c.cap → sqrElem c a = mulElem c a a)) ∧
  sqrElem Config.gen7 ⟨1745053249, 4⟩ = ⟨223809694, 2⟩ ∧
  mulElem Config.gen7 ⟨1745053249, 4⟩ ⟨1745053249, 4⟩ = ⟨223809694 + Config.gen7.p, 2⟩

/-- IMUL (42_arith.md R199, R200): with `m = |k|`, the shape-based variants reduce `g*m`; the Montgomery variants multiply
directly within capacity and fall back to a multiplication by `tores(m)`, with its own capacity check, past it; a
negative scalar negates that; `k = 0` gives `(0, 1)` in a Montgomery variant. The result obeys the excess invariant and
represents `k` times the element, for every scalar of the field. -/
def Obligations.ImulWritesTheMultiple : Prop :=
  ∀ (s : State) (d a : FIdx) (k : Int), s.FValid a →
    ∃ (t : State) (r : FElem), exec (.imul d a k) s = .next t ∧
      r = (if s.cfg.shape = .pm ∨ s.cfg.shape = .gm then ⟨reduce s.cfg ((s.felem a).g * k.natAbs), 2⟩
        else if (s.felem a).e * k.natAbs ≤ s.cfg.cap
          then ⟨(s.felem a).g * k.natAbs, max 1 ((s.felem a).e * k.natAbs)⟩
        else if (s.felem a).e * 2 > s.cfg.cap
          then ⟨reduce s.cfg ((s.felem a).g % s.cfg.p * reduce s.cfg (k.natAbs * s.cfg.r2)), 2⟩
        else ⟨reduce s.cfg ((s.felem a).g * reduce s.cfg (k.natAbs * s.cfg.r2)), 2⟩) ∧
      WritesF s t d
        (if k < 0 then
          if nextpow2 r.e > s.cfg.cap then ⟨(nextpow2 r.e * s.cfg.p - r.g) % s.cfg.p, 1⟩
          else ⟨nextpow2 r.e * s.cfg.p - r.g, nextpow2 r.e⟩
        else r) ∧
      (k = 0 → s.cfg.shape = .mf ∨ s.cfg.shape = .gen → t.f[d].elem = ⟨0, 1⟩) ∧
      (s.Inv → scalarFits k = true → t.f[d].elem.bounded s.cfg = true ∧
        (val s.cfg t.f[d].elem.g : Int) = k * (val s.cfg (s.felem a).g : Int) % (s.cfg.p : Int))

/-- HALF and FRED (42_arith.md R190, R191, R203, R204): HALF keeps the excess and twice its value is the element's;
FRED writes the canonical representative with excess 1 and keeps the value. -/
def Obligations.HalfAndFredWriteTheirValues : Prop :=
  ∀ (s : State) (d a : FIdx), s.FValid a →
    (∃ t, exec (.half d a) s = .next t ∧
      WritesF s t d
        (if (s.felem a).g % 2 = 0 then ⟨(s.felem a).g / 2, (s.felem a).e⟩
          else ⟨((s.felem a).g + s.cfg.p) / 2, (s.felem a).e⟩) ∧
      (s.Inv → t.f[d].elem.bounded s.cfg = true ∧
        2 * val s.cfg t.f[d].elem.g % s.cfg.p = val s.cfg (s.felem a).g)) ∧
    (∃ t, exec (.fred d a) s = .next t ∧ WritesF s t d ⟨(s.felem a).g % s.cfg.p, 1⟩ ∧
      (s.Inv → t.f[d].elem.canonical s.cfg = true ∧
        val s.cfg t.f[d].elem.g = val s.cfg (s.felem a).g))

/-- ISZ and EQU (42_arith.md R193, R195): T says whether the field value is 0, and whether the two field values agree;
no register is written. -/
def Obligations.IszAndEquTestFieldValues : Prop :=
  ∀ (s : State) (a b : FIdx), s.FValid a →
    (∃ t, exec (.isz a) s = .next t ∧ WritesT s t (decide ((s.felem a).g % s.cfg.p = 0)) ∧
      (s.Inv → (t.tFlag = true ↔ val s.cfg (s.felem a).g = 0))) ∧
    (s.FValid b →
      ∃ t, exec (.equ a b) s = .next t ∧ WritesT s t (decide ((s.felem a).g % s.cfg.p = (s.felem b).g % s.cfg.p)) ∧
        (s.Inv → (t.tFlag = true ↔ val s.cfg (s.felem a).g = val s.cfg (s.felem b).g)))

/-- POW (43_exponent.md R224, R225): the canonical power of the field value, with `0^0 = 1`. -/
def Obligations.PowWritesTheCanonicalPower : Prop :=
  ∀ (s : State) (d a : FIdx) (b : XIdx), s.FValid a → s.XValid b →
    ∃ t, exec (.pow d a b) s = .next t ∧ WritesF s t d (powElem s.cfg (s.felem a) (s.xval b)) ∧
      (s.Inv → t.f[d].elem = ⟨rep s.cfg (val s.cfg (s.felem a).g ^ s.xval b % s.cfg.p), 1⟩)

/-- The work of a power (43_exponent.md R226): the counted run gives the power itself, with `4*(nb-1)` squarings and
`14 + (nb-1)` multiplications. -/
def Obligations.PowWorkDependsOnBitLengthOnly : Prop :=
  ∀ (c : Cfg) (b : FElem) (n : Nat),
    powCounted c b n =
      (powElem c b n, ⟨4 * ((bitlength n + 3) / 4), 14 + (bitlength n + 3) / 4⟩)

/-- INV (44_inv_sqrt.md R240, R241): the canonical inverse of a non-zero element, and `(0, 1)` for any zero. -/
def Obligations.InvWritesTheInverse : Prop :=
  ∀ (s : State) (d a : FIdx), s.FValid a →
    ∃ t, exec (.inv d a) s = .next t ∧ WritesF s t d (powElem s.cfg (s.felem a) (s.cfg.p - 2)) ∧
      (s.Inv → t.f[d].elem = ⟨rep s.cfg (val s.cfg (s.felem a).g ^ (s.cfg.p - 2) % s.cfg.p), 1⟩ ∧
        t.f[d].elem.canonical s.cfg = true ∧
        (val s.cfg (s.felem a).g ≠ 0 →
          val s.cfg t.f[d].elem.g * val s.cfg (s.felem a).g % s.cfg.p = 1) ∧
        (val s.cfg (s.felem a).g = 0 → t.f[d].elem = ⟨0, 1⟩))

/-- SQRT in a build with a supported residue class (44_inv_sqrt.md R243, R244, R245, R247): the value of the class's
formula, canonical, for a residue or not, with `a*v*(2*a*v^2 - 1)` and `v = (2a)^((p-5)/8)` in Atkin's class; `(0, 1)` for
zero; its square is the element for a residue, and, when `p = 3 (mod 4)`, the negative for any other element. -/
def Obligations.SqrtWritesTheFormula : Prop :=
  ∀ (s : State) (d a : FIdx), s.FValid a → s.cfg.mod8 ≠ 1 →
    ∃ t, exec (.sqrt d a) s = .next t ∧
      WritesF s t d
        (if s.cfg.mod8 = 5 then sqrtAtkin s.cfg (s.felem a) else powElem s.cfg (s.felem a) ((s.cfg.p + 1) / 4)) ∧
      (s.Inv → t.f[d].elem.canonical s.cfg = true ∧
        (s.cfg.mod8 = 5 → ∀ v, v = (2 * val s.cfg (s.felem a).g) ^ ((s.cfg.p - 5) / 8) % s.cfg.p →
          (val s.cfg t.f[d].elem.g : Int) =
            val s.cfg (s.felem a).g * v * (2 * val s.cfg (s.felem a).g * v ^ 2 - 1) % (s.cfg.p : Int)) ∧
        (s.cfg.mod8 ≠ 5 → val s.cfg t.f[d].elem.g = val s.cfg (s.felem a).g ^ ((s.cfg.p + 1) / 4) % s.cfg.p) ∧
        (val s.cfg (s.felem a).g = 0 → t.f[d].elem = ⟨0, 1⟩) ∧
        (NonzeroSquare s.cfg (val s.cfg (s.felem a).g) →
          val s.cfg t.f[d].elem.g ^ 2 % s.cfg.p = val s.cfg (s.felem a).g) ∧
        (s.cfg.mod8 ≠ 5 → ¬ NonzeroSquare s.cfg (val s.cfg (s.felem a).g) →
          (val s.cfg t.f[d].elem.g ^ 2 + val s.cfg (s.felem a).g) % s.cfg.p = 0))

/-- QR (44_inv_sqrt.md R248, R249): T is set exactly for a non-zero square; no register is written. -/
def Obligations.QrTestsForNonzeroSquares : Prop :=
  ∀ (s : State) (a : FIdx), s.FValid a →
    ∃ t, exec (.qr a) s = .next t ∧ WritesT s t (residueFlag s.cfg (s.felem a)) ∧
      (s.Inv → (t.tFlag = true ↔ NonzeroSquare s.cfg (val s.cfg (s.felem a).g)))

/-- Square-root correctness (44_inv_sqrt.md R250): if QR of `F[A]` sets T and the residue class is supported, SQRT and
then SQR give an element with the field value of `F[A]`. -/
def Obligations.SqrtOfResidueSquaresBack : Prop :=
  ∀ (s q : State) (d a e : FIdx), s.Inv → s.FValid a → s.cfg.mod8 ≠ 1 →
    exec (.qr a) s = .next q → q.tFlag = true →
    ∃ t u, exec (.sqrt d a) s = .next t ∧ exec (.sqr e d) t = .next u ∧
      val s.cfg (u.felem e).g = val s.cfg (s.felem a).g

/-- Residuosity does not change under multiplication by a non-zero square (44_inv_sqrt.md R251). -/
def Obligations.ResidueFlagIgnoresSquares : Prop :=
  ∀ (c : Cfg) (b u : FElem), c.wellFormed = true → b.bounded c = true → u.bounded c = true → val c u.g ≠ 0 →
    residueFlag c (mulElem c b (sqrElem c u)) = residueFlag c b

/-- CSWAP (45_utility.md R260, R261): with the condition, the constant or T, both registers exchange value and excess;
without it they keep them; nothing else changes. -/
def Obligations.CswapExchangesOnCondition : Prop :=
  ∀ (s : State) (d a : FIdx) (sel c : Bool), s.FValid a → s.FValid d →
    ∃ t, exec (.cswap d a sel c) s = .next t ∧ Completed s t ∧
      ((if sel then s.tFlag else c) = true → t.f[d] = s.f[a] ∧ t.f[a] = s.f[d]) ∧
      ((if sel then s.tFlag else c) = false → t.f[d] = s.f[d] ∧ t.f[a] = s.f[a]) ∧
      (∀ i : Fin 16, i ≠ d → i ≠ a → t.f[i] = s.f[i]) ∧ t.x = s.x ∧ t.tFlag = s.tFlag

/-- CMOV (45_utility.md R261, R262): the destination takes the source's value and excess with the condition and keeps
its own without it. -/
def Obligations.CmovMovesOnCondition : Prop :=
  ∀ (s : State) (d a : FIdx) (sel c : Bool), s.FValid a → s.FValid d →
    ∃ t, exec (.cmov d a sel c) s = .next t ∧
      WritesF s t d (if (if sel then s.tFlag else c) = true then s.felem a else s.felem d)
end

