-- ==== Sys2Proof/Laws/Numbers.lean ====
section
/-! SUPPORT. What the number helpers compute: bit lengths, least powers of two, modular powers. -/

namespace Sys2Proof.Machine

theorem lt_two_pow_bitlength (x : Nat) : x < 2 ^ bitlength x := by
  unfold bitlength
  split
  · simp_all
  · exact Nat.lt_log2_self

theorem bitlength_le_iff (x k : Nat) : bitlength x ≤ k ↔ x < 2 ^ k := by
  unfold bitlength
  split
  · simp_all
  · rename_i h
    rw [← Nat.log2_lt h]
    omega

/-- `nextpow2 e` is a power of two at or above `e` (00_scope.md R14). -/
theorem le_nextpow2 (e : Nat) : e ≤ nextpow2 e := by
  have := lt_two_pow_bitlength (e - 1)
  unfold nextpow2
  omega

/-- `nextpow2 e` is the least such power (00_scope.md R14). -/
theorem nextpow2_le_of_le_two_pow {e k : Nat} (h : e ≤ 2 ^ k) : nextpow2 e ≤ 2 ^ k := by
  have hk : 0 < 2 ^ k := Nat.two_pow_pos k
  unfold nextpow2
  exact Nat.pow_le_pow_right (by decide) ((bitlength_le_iff _ _).2 (by omega))

theorem nextpow2_pos (e : Nat) : 0 < nextpow2 e := Nat.two_pow_pos _

theorem powModFuel_eq (m : Nat) (fuel b n : Nat) (h : n < 2 ^ fuel) : powModFuel m fuel b n = b ^ n % m := by
  induction fuel generalizing b n with
  | zero =>
    obtain rfl : n = 0 := by simpa using h
    simp [powModFuel]
  | succ fuel ih =>
    have hn : n / 2 < 2 ^ fuel := by omega
    have hsq : (b * b % m) ^ (n / 2) % m = b ^ (2 * (n / 2)) % m := by
      rw [← Nat.pow_mod, ← pow_two, ← pow_mul]
    simp only [powModFuel, ih _ _ hn, hsq]
    split
    · rename_i hodd
      have hn2 : n = 2 * (n / 2) + 1 := by omega
      conv_rhs => rw [hn2, pow_succ']
      rw [Nat.mul_mod, Nat.mod_mod, ← Nat.mul_mod]
    · have hn2 : n = 2 * (n / 2) := by omega
      conv_rhs => rw [hn2]

/-- The modular power is the power, reduced. -/
theorem powMod_eq (b n m : Nat) : powMod b n m = b ^ n % m := by
  rw [powMod, powModFuel_eq m _ _ _ (lt_two_pow_bitlength n), ← Nat.pow_mod]

end Sys2Proof.Machine
end

