-- ==== Sys2Proof/Laws/Primes.lean ====
section
/-! SUPPORT. The moduli of the profiles are prime, so the primality test of a build (00_scope.md R9 WF1) says exactly
that its modulus is prime. Each prime comes with a certificate: a number whose order is one less, shown by the prime
factors of that order, which are certified before it. -/

namespace Sys2Proof.Machine

/-- A certificate that `p` is prime: `a` has order `p - 1`, the product of `factors`. -/
structure PrimeCert where
  p : Nat
  a : Nat
  factors : List Nat

/-- The check of one certificate against the primes certified before it. -/
def PrimeCert.check (known : List Nat) (cert : PrimeCert) : Bool :=
  decide (1 < cert.p) && cert.factors.all (fun q => known.contains q)
    && decide (cert.factors.prod = cert.p - 1)
    && decide (powMod cert.a (cert.p - 1) cert.p = 1)
    && cert.factors.all (fun q => decide (powMod cert.a ((cert.p - 1) / q) cert.p ≠ 1))

/-- A certificate list checked in order, each against those before it and the primes known at the start. -/
def certsCheck : List Nat → List PrimeCert → Bool
  | _, [] => true
  | known, cert :: rest => cert.check known && certsCheck (cert.p :: known) rest

theorem natCast_pow_eq_one_iff {p : Nat} (hp : 1 < p) (a n : Nat) :
    (a : ZMod p) ^ n = 1 ↔ powMod a n p = 1 := by
  rw [powMod_eq, ← Nat.cast_pow, ← Nat.cast_one, ZMod.natCast_eq_natCast_iff, Nat.ModEq, Nat.mod_eq_of_lt hp]

theorem PrimeCert.prime_of_check {known : List Nat} {cert : PrimeCert} (hk : ∀ q ∈ known, q.Prime)
    (h : cert.check known = true) : cert.p.Prime := by
  simp only [PrimeCert.check, Bool.and_eq_true, decide_eq_true_eq, List.all_eq_true] at h
  obtain ⟨⟨⟨⟨hp, hf⟩, hprod⟩, hone⟩, hne⟩ := h
  refine lucas_primality cert.p (cert.a : ZMod cert.p) ((natCast_pow_eq_one_iff hp _ _).2 hone) ?_
  intro q hq hdvd
  rw [← hprod, hq.prime.dvd_prod_iff] at hdvd
  obtain ⟨r, hr, hqr⟩ := hdvd
  have hrp : r.Prime := hk r (by simpa using hf r hr)
  obtain rfl := (Nat.prime_dvd_prime_iff_eq hq hrp).1 hqr
  rw [Ne, natCast_pow_eq_one_iff hp]
  exact hne q hr

theorem primes_of_certsCheck {known : List Nat} {certs : List PrimeCert} (hk : ∀ q ∈ known, q.Prime)
    (h : certsCheck known certs = true) : ∀ q ∈ certs.map PrimeCert.p ++ known, q.Prime := by
  induction certs generalizing known with
  | nil => simpa using hk
  | cons cert rest ih =>
    simp only [certsCheck, Bool.and_eq_true] at h
    have hc := PrimeCert.prime_of_check hk h.1
    have hk' : ∀ q ∈ cert.p :: known, q.Prime := by
      intro q hq
      rcases List.mem_cons.1 hq with rfl | hq
      · exact hc
      · exact hk q hq
    intro q hq
    refine ih hk' h.2 q ?_
    simp only [List.map_cons, List.cons_append, List.mem_cons, List.mem_append] at hq ⊢
    tauto

def profileCerts0 : List PrimeCert :=
  [⟨3, 2, [2]⟩,
   ⟨13, 2, [2, 2, 3]⟩,
   ⟨53, 2, [2, 2, 13]⟩,
   ⟨10177, 7, [2, 2, 2, 2, 2, 2, 3, 53]⟩,
   ⟨17, 3, [2, 2, 2, 2]⟩,
   ⟨47737, 5, [2, 2, 2, 3, 3, 3, 13, 17]⟩,
   ⟨859267, 2, [2, 3, 3, 47737]⟩,
   ⟨5, 2, [2, 2]⟩,
   ⟨1327, 3, [2, 3, 13, 17]⟩,
   ⟨421987, 2, [2, 3, 53, 1327]⟩,
   ⟨11, 2, [2, 5]⟩,
   ⟨23, 5, [2, 11]⟩,
   ⟨47, 5, [2, 23]⟩,
   ⟨13090036741, 10, [2, 2, 3, 5, 11, 47, 421987]⟩,
   ⟨7, 3, [2, 3]⟩,
   ⟨113, 3, [2, 2, 2, 2, 7]⟩,
   ⟨41, 6, [2, 2, 2, 5]⟩,
   ⟨1151, 17, [2, 5, 5, 23]⟩,
   ⟨755057, 3, [2, 2, 2, 2, 41, 1151]⟩,
   ⟨19, 2, [2, 3, 3]⟩]

def profileCerts1 : List PrimeCert :=
  [⟨3819663927398918131021, 6, [2, 2, 3, 3, 5, 19, 113, 755057, 13090036741]⟩,
   ⟨281, 3, [2, 2, 2, 5, 7]⟩,
   ⟨3373, 5, [2, 2, 3, 281]⟩,
   ⟨8101, 6, [2, 2, 3, 3, 3, 3, 5, 5]⟩,
   ⟨151, 6, [2, 3, 5, 5]⟩,
   ⟨51376543, 3, [2, 3, 7, 151, 8101]⟩,
   ⟨43670061551, 7, [2, 5, 5, 17, 51376543]⟩,
   ⟨1125266252156850182658904441386709967, 5, [2, 3373, 43670061551, 3819663927398918131021]⟩,
   ⟨409, 21, [2, 2, 2, 3, 17]⟩,
   ⟨1453, 2, [2, 2, 3, 11, 11]⟩,
   ⟨43591, 11, [2, 3, 5, 1453]⟩,
   ⟨927093389, 3, [2, 2, 13, 409, 43591]⟩,
   ⟨64881703735777, 5, [2, 2, 2, 2, 2, 3, 3, 3, 3, 3, 3, 3, 927093389]⟩,
   ⟨29, 2, [2, 2, 7]⟩,
   ⟨233, 3, [2, 2, 2, 29]⟩,
   ⟨467, 2, [2, 233]⟩,
   ⟨31, 3, [2, 3, 5]⟩,
   ⟨137, 3, [2, 2, 2, 17]⟩,
   ⟨2741, 2, [2, 2, 5, 137]⟩,
   ⟨16447, 3, [2, 3, 2741]⟩]

def profileCerts2 : List PrimeCert :=
  [⟨92691255082156974996979, 3, [2, 3, 31, 467, 16447, 64881703735777]⟩,
   ⟨191, 19, [2, 5, 19]⟩,
   ⟨1686913, 10, [2, 2, 2, 2, 2, 2, 2, 3, 23, 191]⟩,
   ⟨475709467, 2, [2, 3, 47, 1686913]⟩,
   ⟨15778400344354997994418419698270088123916926905054652752758194827714659, 2, [2, 3, 53, 475709467, 92691255082156974996979, 1125266252156850182658904441386709967]⟩,
   ⟨43, 3, [2, 3, 7]⟩,
   ⟨97, 5, [2, 2, 2, 2, 2, 3]⟩,
   ⟨449, 3, [2, 2, 2, 2, 2, 2, 7]⟩,
   ⟨609743, 5, [2, 7, 97, 449]⟩,
   ⟨52437899, 2, [2, 43, 609743]⟩,
   ⟨67, 2, [2, 3, 11]⟩,
   ⟨181, 2, [2, 2, 3, 3, 5]⟩,
   ⟨1087, 3, [2, 3, 181]⟩,
   ⟨4349, 2, [2, 2, 1087]⟩,
   ⟨582767, 5, [2, 67, 4349]⟩,
   ⟨947, 2, [2, 11, 43]⟩,
   ⟨7577, 3, [2, 2, 2, 947]⟩,
   ⟨9272813673901, 2, [2, 2, 3, 5, 5, 7, 7577, 582767]⟩,
   ⟨1928745244171409, 3, [2, 2, 2, 2, 13, 9272813673901]⟩,
   ⟨941, 2, [2, 2, 5, 47]⟩]

def profileCerts3 : List PrimeCert :=
  [⟨7259797099061183477, 2, [2, 2, 941, 1928745244171409]⟩,
   ⟨89, 3, [2, 2, 2, 11]⟩,
   ⟨2584487767265781317813, 2, [2, 2, 89, 7259797099061183477]⟩,
   ⟨4002409555221667393417789825735904156556882819939007885332058136124031650490837864442687629129015664037894272559787, 2, [2, 3, 3, 11, 23, 47, 10177, 859267, 52437899, 2584487767265781317813, 15778400344354997994418419698270088123916926905054652752758194827714659]⟩,
   ⟨92737, 5, [2, 2, 2, 2, 2, 2, 3, 3, 7, 23]⟩,
   ⟨73, 5, [2, 2, 2, 3, 3]⟩,
   ⟨174763, 17, [2, 3, 3, 7, 19, 73]⟩,
   ⟨699053, 2, [2, 2, 174763]⟩,
   ⟨77158673929, 11, [2, 2, 2, 3, 3, 3, 7, 73, 699053]⟩,
   ⟨5419, 3, [2, 3, 3, 7, 43]⟩,
   ⟨337, 10, [2, 2, 2, 2, 3, 7]⟩,
   ⟨1289, 6, [2, 2, 2, 7, 23]⟩,
   ⟨649657, 5, [2, 2, 2, 3, 3, 7, 1289]⟩,
   ⟨127, 3, [2, 3, 3, 7]⟩,
   ⟨170141183460469231731687303715884105727, 43, [2, 3, 3, 3, 7, 7, 19, 43, 73, 127, 337, 5419, 92737, 649657, 77158673929]⟩,
   ⟨148721, 6, [2, 2, 2, 2, 5, 11, 13, 13]⟩,
   ⟨500000003, 2, [2, 41, 41, 148721]⟩,
   ⟨1000000007, 5, [2, 500000003]⟩,
   ⟨739, 3, [2, 3, 3, 41]⟩,
   ⟨37, 2, [2, 2, 3, 3]⟩]

def profileCerts4 : List PrimeCert :=
  [⟨593, 3, [2, 2, 2, 2, 37]⟩,
   ⟨1187, 2, [2, 593]⟩,
   ⟨1000000021, 2, [2, 2, 3, 5, 19, 739, 1187]⟩,
   ⟨83, 2, [2, 41]⟩,
   ⟨167, 5, [2, 83]⟩,
   ⟨109, 6, [2, 2, 3, 3, 3]⟩,
   ⟨1000000009, 13, [2, 2, 2, 3, 3, 7, 109, 109, 167]⟩,
   ⟨257, 3, [2, 2, 2, 2, 2, 2, 2, 2]⟩,
   ⟨78643, 11, [2, 3, 3, 17, 257]⟩,
   ⟨786431, 14, [2, 5, 78643]⟩,
   ⟨641, 3, [2, 2, 2, 2, 2, 2, 2, 5]⟩,
   ⟨727, 5, [2, 3, 11, 11]⟩,
   ⟨17449, 14, [2, 2, 2, 3, 727]⟩,
   ⟨6700417, 5, [2, 2, 2, 2, 2, 2, 2, 3, 17449]⟩,
   ⟨443, 2, [2, 13, 17]⟩,
   ⟨1481, 3, [2, 2, 2, 5, 37]⟩,
   ⟨2963, 2, [2, 1481]⟩,
   ⟨36753053, 2, [2, 2, 7, 443, 2963]⟩,
   ⟨1549, 2, [2, 2, 3, 3, 43]⟩,
   ⟨6197, 2, [2, 2, 1549]⟩]

def profileCerts5 : List PrimeCert :=
  [⟨61, 2, [2, 2, 3, 5]⟩,
   ⟨1335912079, 6, [2, 3, 19, 31, 61, 6197]⟩,
   ⟨32061889897, 10, [2, 2, 2, 3, 1335912079]⟩,
   ⟨25136521679249, 3, [2, 2, 2, 2, 7, 7, 32061889897]⟩,
   ⟨149, 2, [2, 2, 37]⟩,
   ⟨2683, 2, [2, 3, 3, 149]⟩,
   ⟨2437, 2, [2, 2, 3, 7, 29]⟩,
   ⟨9749, 2, [2, 2, 2437]⟩,
   ⟨116989, 10, [2, 2, 3, 9749]⟩,
   ⟨1255525949, 2, [2, 2, 2683, 116989]⟩,
   ⟨37414057161322375957408148834323969, 23, [2, 2, 2, 2, 2, 2, 2, 2, 2, 3, 3, 7, 36753053, 1255525949, 25136521679249]⟩,
   ⟨223, 3, [2, 3, 37]⟩,
   ⟨2916841, 13, [2, 2, 2, 3, 5, 109, 223]⟩,
   ⟨463, 3, [2, 3, 7, 11]⟩,
   ⟨59, 2, [2, 29]⟩,
   ⟨613, 2, [2, 2, 3, 3, 17]⟩,
   ⟨217003, 3, [2, 3, 59, 613]⟩,
   ⟨271, 6, [2, 3, 3, 3, 5]⟩,
   ⟨1764234391, 3, [2, 3, 5, 271, 217003]⟩,
   ⟨34741861125639557, 13, [2, 2, 7, 7, 7, 31, 463, 1764234391]⟩]

def profileCerts6 : List PrimeCert :=
  [⟨36131535570665139281, 3, [2, 2, 2, 2, 5, 13, 34741861125639557]⟩,
   ⟨596242599987116128415063, 5, [2, 37, 223, 36131535570665139281]⟩,
   ⟨196687, 3, [2, 3, 3, 7, 7, 223]⟩,
   ⟨18287, 5, [2, 41, 223]⟩,
   ⟨1466449, 7, [2, 2, 2, 2, 3, 137, 223]⟩,
   ⟨2531, 2, [2, 5, 11, 23]⟩,
   ⟨197, 2, [2, 2, 7, 7]⟩,
   ⟨1979, 2, [2, 23, 43]⟩,
   ⟨47497, 5, [2, 2, 2, 3, 1979]⟩,
   ⟨189989, 2, [2, 2, 47497]⟩,
   ⟨379979, 2, [2, 189989]⟩,
   ⟨97859369123353, 5, [2, 2, 2, 3, 3, 67, 197, 271, 379979]⟩,
   ⟨167773885276849215533569, 17, [2, 2, 2, 2, 2, 2, 2, 2, 2, 3, 3, 3, 7, 7, 2531, 97859369123353]⟩,
   ⟨1609403, 2, [2, 23, 59, 593]⟩,
   ⟨3402277943, 5, [2, 7, 151, 1609403]⟩,
   ⟨229, 6, [2, 2, 3, 19]⟩,
   ⟨411743, 10, [2, 29, 31, 229]⟩,
   ⟨1469495262398780123809, 17, [2, 2, 2, 2, 2, 3, 7, 7, 223, 411743, 3402277943]⟩,
   ⟨726838724295606890549323807888004534353641360687318060281490199180612328166730772686396383698676545930088884461843637361053498018365439, 7, [2, 641, 18287, 196687, 1466449, 2916841, 6700417, 1469495262398780123809, 167773885276849215533569, 596242599987116128415063, 37414057161322375957408148834323969]⟩]

/-- The certificates of the profile moduli, in the order they are checked. -/
def profileCerts : List PrimeCert :=
  profileCerts0 ++ profileCerts1 ++ profileCerts2 ++ profileCerts3 ++ profileCerts4 ++ profileCerts5 ++ profileCerts6

theorem profileCerts_check : certsCheck [2] profileCerts = true := by decide +kernel

/-- Every modulus of a profile is prime (00_scope.md R10, 92_eei_decisions.md D3). -/
theorem profileModuli_prime : ∀ p ∈ profileModuli, p.Prime := by
  have hall := primes_of_certsCheck (known := [2]) (by simp [Nat.prime_two]) profileCerts_check
  have hsub : profileModuli.all (fun p => (profileCerts.map PrimeCert.p ++ [2]).contains p) = true := by
    decide +kernel
  intro p hp
  exact hall p (by simpa using List.all_eq_true.1 hsub p hp)

/-- The primality test of a build is exact (00_scope.md R9 WF1). -/
theorem isPrime_iff (p : Nat) : isPrime p = true ↔ p.Prime := by
  simp only [isPrime, Bool.or_eq_true, decide_eq_true_eq]
  constructor
  · rintro (h | h)
    · exact profileModuli_prime p (by simpa using h)
    · exact h
  · exact Or.inr

end Sys2Proof.Machine
end

