-- ==== Sys2Proof/Laws/Build.lean ====
section
/-! SUPPORT. What a well-formed build gives (00_scope.md R9), and what follows for the radix: its inverse modulo `p`, the
inverse of `p` modulo it, and the two readings of a register value (10_state.md R36, R37). -/

namespace Sys2Proof.Machine

variable {c : Cfg}

/-! The conditions of a well-formed build, one at a time. -/

theorem wf1_of_wellFormed (h : c.wellFormed = true) : c.wf1 = true := by
  simp only [Cfg.wellFormed, Bool.and_eq_true] at h
  exact h.1.1.1.1.2

theorem wf2_of_wellFormed (h : c.wellFormed = true) : c.wf2 = true := by
  simp only [Cfg.wellFormed, Bool.and_eq_true] at h
  exact h.1.1.1.2

theorem shapeHolds_of_wellFormed (h : c.wellFormed = true) : c.shapeHolds = true := by
  simp only [Cfg.wellFormed, Bool.and_eq_true] at h
  exact h.1.1.2

theorem p_prime (h : c.wellFormed = true) : c.p.Prime := by
  have := wf1_of_wellFormed h
  simp only [Cfg.wf1, Bool.and_eq_true] at this
  exact (isPrime_iff _).1 this.2

theorem p_odd (h : c.wellFormed = true) : c.p % 2 = 1 := by
  have := wf1_of_wellFormed h
  simp only [Cfg.wf1, Bool.and_eq_true, decide_eq_true_eq] at this
  exact this.1.1.1.1

theorem p_gt_128 (h : c.wellFormed = true) : 128 < c.p := by
  have := wf1_of_wellFormed h
  simp only [Cfg.wf1, Bool.and_eq_true, decide_eq_true_eq] at this
  exact this.1.1.1.2

theorem two_le_cap (h : c.wellFormed = true) : 2 ≤ c.cap := by
  have := wf2_of_wellFormed h
  simp only [Cfg.wf2, Bool.and_eq_true, decide_eq_true_eq] at this
  exact this.1.1

theorem cap_mul_p_le_r (h : c.wellFormed = true) : c.cap * c.p ≤ c.r := by
  have := wf2_of_wellFormed h
  simp only [Cfg.wf2, Bool.and_eq_true, decide_eq_true_eq] at this
  exact this.2

theorem gw_le (h : c.wellFormed = true) : c.gw ≤ 2016 := by
  simp only [Cfg.wellFormed, Cfg.wf7, Bool.and_eq_true, decide_eq_true_eq] at h
  exact h.2

theorem r_pos (c : Cfg) : 0 < c.r := Nat.two_pow_pos _

theorem coprime_p_r (h : c.wellFormed = true) : Nat.Coprime c.p c.r := by
  refine Nat.Coprime.pow_right _ ?_
  exact Nat.coprime_two_right.2 (Nat.odd_iff.2 (p_odd h))

/-- Every stored value fits its register: the bound of WF2 is strict (00_scope.md R9, 10_state.md R40). -/
theorem cap_mul_p_lt_r (h : c.wellFormed = true) : c.cap * c.p < c.r := by
  refine lt_of_le_of_ne (cap_mul_p_le_r h) fun he => ?_
  have hd : c.p ∣ c.r := ⟨c.cap, by rw [← he, Nat.mul_comm]⟩
  have := Nat.Coprime.eq_one_of_dvd (coprime_p_r h) hd
  have := p_gt_128 h
  omega

theorem p_lt_r (h : c.wellFormed = true) : c.p < c.r := by
  have h1 := cap_mul_p_lt_r h
  have h2 := Nat.mul_le_mul_right c.p (two_le_cap h)
  have := p_gt_128 h
  omega

/-! The inverses. -/

/-- `Rinv` is the inverse of `R` modulo `p` (10_state.md R36). -/
theorem r_mul_rInv (h : c.wellFormed = true) : c.r * rInv c % c.p = 1 := by
  have hp := p_gt_128 h
  have hf : c.r ^ (c.p - 1) ≡ 1 [MOD c.p] := by
    have := Nat.ModEq.pow_totient (coprime_p_r h).symm
    rwa [Nat.totient_prime (p_prime h)] at this
  have he : c.p - 1 = c.p - 2 + 1 := by omega
  rw [he, pow_succ', Nat.ModEq, Nat.one_mod_eq_one.2 (by omega)] at hf
  rw [rInv, powMod_eq, Nat.mul_mod_mod, hf]

/-- Each doubling squares the error of an inverse modulo a power of two. -/
theorem invPow2_spec (p k : Nat) (hp : p % 2 = 1) (n : Nat) :
    ((2 : Int) ^ min (2 ^ n) k ∣ p * (invPow2 p (2 ^ k) n : Int) - 1) := by
  induction n with
  | zero =>
    refine dvd_trans (pow_dvd_pow 2 (Nat.min_le_left _ _)) ?_
    simp only [invPow2]
    omega
  | succ n ih =>
    obtain ⟨q, hq⟩ := ih
    have hlt : p * invPow2 p (2 ^ k) n % 2 ^ k < 2 ^ k := Nat.mod_lt _ (Nat.two_pow_pos k)
    have hr : (2 : Int) ^ min (2 ^ (n + 1)) k ∣ (2 : Int) ^ k := pow_dvd_pow 2 (Nat.min_le_right _ _)
    have hsq : (2 : Int) ^ min (2 ^ (n + 1)) k ∣ ((2 : Int) ^ min (2 ^ n) k) * (2 : Int) ^ min (2 ^ n) k := by
      rw [← pow_add]
      exact pow_dvd_pow 2 (by rw [pow_succ]; omega)
    set x := invPow2 p (2 ^ k) n with hx
    have hdef : (invPow2 p (2 ^ k) (n + 1) : Int) = x * (2 + 2 ^ k - (p * x) % 2 ^ k) % 2 ^ k := by
      simp only [invPow2, ← hx]
      push_cast [Nat.cast_sub (show p * x % 2 ^ k ≤ 2 + 2 ^ k by omega)]
      rfl
    have hmod (z : Int) : (2 : Int) ^ min (2 ^ (n + 1)) k ∣ z % 2 ^ k - z :=
      dvd_trans hr (Int.dvd_iff_emod_eq_zero.2 (by simp [Int.emod_emod_of_dvd, Int.sub_emod]))
    rw [hdef]
    obtain ⟨u, hu⟩ := hmod (x * (2 + 2 ^ k - (p * x) % 2 ^ k))
    obtain ⟨v, hv⟩ := hmod (p * x)
    obtain ⟨t, ht⟩ := hr
    obtain ⟨y, hy⟩ := hsq
    refine ⟨p * u + p * x * (t - v) - y * q * q, ?_⟩
    have h1 : (x * (2 + 2 ^ k - (p * x) % 2 ^ k) % 2 ^ k : Int) =
        x * (2 + 2 ^ k - (p * x) % 2 ^ k) + 2 ^ min (2 ^ (n + 1)) k * u := by linarith
    have h2 : ((p * x) % 2 ^ k : Int) = p * x + 2 ^ min (2 ^ (n + 1)) k * v := by linarith
    have h3 : (p * x : Int) = 1 + 2 ^ min (2 ^ n) k * q := by linarith
    rw [h1, h2, ht]
    have h4 : (p * x - 1 : Int) * (p * x - 1) = 2 ^ min (2 ^ (n + 1)) k * y * q * q := by
      rw [h3]; linear_combination q * q * hy
    linear_combination (-1 : Int) * h4

/-- With as many doublings as reach the width, the error is gone. -/
theorem mul_invPow2_mod {p k n : Nat} (hp : p % 2 = 1) (hk : k ≤ 2 ^ n) (h1 : 1 < 2 ^ k) :
    p * invPow2 p (2 ^ k) n % 2 ^ k = 1 := by
  have hs := invPow2_spec p k hp n
  rw [Nat.min_eq_right hk] at hs
  have : p * invPow2 p (2 ^ k) n ≡ 1 [MOD 2 ^ k] := by
    rw [← Int.natCast_modEq_iff]
    refine Int.ModEq.symm (Int.modEq_iff_dvd.2 ?_)
    push_cast
    exact hs
  rwa [Nat.ModEq, Nat.mod_eq_of_lt h1] at this

/-- `pInvR` is the inverse of `p` modulo `R` (41_reduction.md R156). -/
theorem p_mul_pInvR (h : c.wellFormed = true) : c.p * pInvR c % c.r = 1 := by
  have h1 : 1 < c.r := by have := p_lt_r h; have := p_gt_128 h; omega
  exact mul_invPow2_mod (p_odd h) (le_trans (gw_le h) (by norm_num)) h1

/-! The two readings of a register value (10_state.md R37). -/

theorem val_lt (h : c.wellFormed = true) (g : Nat) : val c g < c.p := by
  have := p_gt_128 h
  unfold val
  split <;> exact Nat.mod_lt _ (by omega)

theorem val_mod (c : Cfg) (g : Nat) : val c (g % c.p) = val c g := by
  unfold val
  split
  · rw [Nat.mod_mod]
  · rw [Nat.mod_mul_mod]

theorem val_rep (h : c.wellFormed = true) (v : Nat) : val c (rep c v) = v % c.p := by
  unfold val rep
  split
  · rw [Nat.mod_mod]
  · rw [Nat.mod_mul_mod, Nat.mul_assoc, Nat.mul_mod, r_mul_rInv h, Nat.mul_one, Nat.mod_mod]

theorem rep_val (h : c.wellFormed = true) (g : Nat) : rep c (val c g) = g % c.p := by
  unfold val rep
  split
  · rw [Nat.mod_mod]
  · rw [Nat.mod_mul_mod, Nat.mul_assoc, Nat.mul_mod, Nat.mul_comm (rInv c), r_mul_rInv h, Nat.mul_one, Nat.mod_mod]

/-- Two register values represent the same field element iff they agree modulo `p` (10_state.md R36). -/
theorem val_eq_iff (h : c.wellFormed = true) (g g' : Nat) : val c g = val c g' ↔ g % c.p = g' % c.p := by
  constructor
  · intro he
    rw [← rep_val h, ← rep_val h, he]
  · intro he
    rw [← val_mod c g, ← val_mod c g', he]

end Sys2Proof.Machine
end

