-- ==== Sys2Proof/Laws/State.lean ====
section
/-! SUPPORT. What each update of the state does to each field, so that no proof unfolds a record update. -/

namespace Sys2Proof.Machine

variable (s : State)

@[simp] theorem setF_cfg (i : FIdx) (a : FElem) : (s.setF i a).cfg = s.cfg := rfl
@[simp] theorem setF_f (i : FIdx) (a : FElem) : (s.setF i a).f = s.f.set i ⟨a, true⟩ := rfl
@[simp] theorem setF_x (i : FIdx) (a : FElem) : (s.setF i a).x = s.x := rfl
@[simp] theorem setF_tFlag (i : FIdx) (a : FElem) : (s.setF i a).tFlag = s.tFlag := rfl
@[simp] theorem setF_fifo (i : FIdx) (a : FElem) : (s.setF i a).fifo = s.fifo := rfl
@[simp] theorem setF_inflight (i : FIdx) (a : FElem) : (s.setF i a).inflight = s.inflight := rfl
@[simp] theorem setF_cmdcnt (i : FIdx) (a : FElem) : (s.setF i a).cmdcnt = s.cmdcnt := rfl
@[simp] theorem setF_error (i : FIdx) (a : FElem) : (s.setF i a).error = s.error := rfl
@[simp] theorem setF_done (i : FIdx) (a : FElem) : (s.setF i a).done = s.done := rfl
@[simp] theorem setF_ovf (i : FIdx) (a : FElem) : (s.setF i a).ovf = s.ovf := rfl
@[simp] theorem setF_cmddrop (i : FIdx) (a : FElem) : (s.setF i a).cmddrop = s.cmddrop := rfl
@[simp] theorem setF_accerr (i : FIdx) (a : FElem) : (s.setF i a).accerr = s.accerr := rfl
@[simp] theorem setF_ieDone (i : FIdx) (a : FElem) : (s.setF i a).ieDone = s.ieDone := rfl
@[simp] theorem setF_ieErr (i : FIdx) (a : FElem) : (s.setF i a).ieErr = s.ieErr := rfl
@[simp] theorem setF_rstN (i : FIdx) (a : FElem) : (s.setF i a).rstN = s.rstN := rfl
@[simp] theorem setF_reply (i : FIdx) (a : FElem) : (s.setF i a).reply = s.reply := rfl
@[simp] theorem setF_turns (i : FIdx) (a : FElem) : (s.setF i a).turns = s.turns := rfl

@[simp] theorem setX_cfg (i : XIdx) (v : Nat) : (s.setX i v).cfg = s.cfg := rfl
@[simp] theorem setX_f (i : XIdx) (v : Nat) : (s.setX i v).f = s.f := rfl
@[simp] theorem setX_x (i : XIdx) (v : Nat) : (s.setX i v).x = s.x.set i ⟨v, true⟩ := rfl
@[simp] theorem setX_tFlag (i : XIdx) (v : Nat) : (s.setX i v).tFlag = s.tFlag := rfl
@[simp] theorem setX_fifo (i : XIdx) (v : Nat) : (s.setX i v).fifo = s.fifo := rfl
@[simp] theorem setX_inflight (i : XIdx) (v : Nat) : (s.setX i v).inflight = s.inflight := rfl
@[simp] theorem setX_cmdcnt (i : XIdx) (v : Nat) : (s.setX i v).cmdcnt = s.cmdcnt := rfl
@[simp] theorem setX_error (i : XIdx) (v : Nat) : (s.setX i v).error = s.error := rfl
@[simp] theorem setX_done (i : XIdx) (v : Nat) : (s.setX i v).done = s.done := rfl
@[simp] theorem setX_ovf (i : XIdx) (v : Nat) : (s.setX i v).ovf = s.ovf := rfl
@[simp] theorem setX_cmddrop (i : XIdx) (v : Nat) : (s.setX i v).cmddrop = s.cmddrop := rfl
@[simp] theorem setX_accerr (i : XIdx) (v : Nat) : (s.setX i v).accerr = s.accerr := rfl
@[simp] theorem setX_ieDone (i : XIdx) (v : Nat) : (s.setX i v).ieDone = s.ieDone := rfl
@[simp] theorem setX_ieErr (i : XIdx) (v : Nat) : (s.setX i v).ieErr = s.ieErr := rfl
@[simp] theorem setX_rstN (i : XIdx) (v : Nat) : (s.setX i v).rstN = s.rstN := rfl
@[simp] theorem setX_reply (i : XIdx) (v : Nat) : (s.setX i v).reply = s.reply := rfl
@[simp] theorem setX_turns (i : XIdx) (v : Nat) : (s.setX i v).turns = s.turns := rfl

@[simp] theorem setT_cfg (b : Bool) : (s.setT b).cfg = s.cfg := rfl
@[simp] theorem setT_f (b : Bool) : (s.setT b).f = s.f := rfl
@[simp] theorem setT_x (b : Bool) : (s.setT b).x = s.x := rfl
@[simp] theorem setT_tFlag (b : Bool) : (s.setT b).tFlag = b := rfl
@[simp] theorem setT_fifo (b : Bool) : (s.setT b).fifo = s.fifo := rfl
@[simp] theorem setT_inflight (b : Bool) : (s.setT b).inflight = s.inflight := rfl
@[simp] theorem setT_cmdcnt (b : Bool) : (s.setT b).cmdcnt = s.cmdcnt := rfl
@[simp] theorem setT_error (b : Bool) : (s.setT b).error = s.error := rfl
@[simp] theorem setT_done (b : Bool) : (s.setT b).done = s.done := rfl
@[simp] theorem setT_ovf (b : Bool) : (s.setT b).ovf = s.ovf := rfl
@[simp] theorem setT_cmddrop (b : Bool) : (s.setT b).cmddrop = s.cmddrop := rfl
@[simp] theorem setT_accerr (b : Bool) : (s.setT b).accerr = s.accerr := rfl
@[simp] theorem setT_ieDone (b : Bool) : (s.setT b).ieDone = s.ieDone := rfl
@[simp] theorem setT_ieErr (b : Bool) : (s.setT b).ieErr = s.ieErr := rfl
@[simp] theorem setT_rstN (b : Bool) : (s.setT b).rstN = s.rstN := rfl
@[simp] theorem setT_reply (b : Bool) : (s.setT b).reply = s.reply := rfl
@[simp] theorem setT_turns (b : Bool) : (s.setT b).turns = s.turns := rfl

@[simp] theorem complete_cfg : (s.complete).cfg = s.cfg := rfl
@[simp] theorem complete_f : (s.complete).f = s.f := rfl
@[simp] theorem complete_x : (s.complete).x = s.x := rfl
@[simp] theorem complete_tFlag : (s.complete).tFlag = s.tFlag := rfl
@[simp] theorem complete_fifo : (s.complete).fifo = s.fifo := rfl
@[simp] theorem complete_inflight : (s.complete).inflight = none := rfl
@[simp] theorem complete_cmdcnt : (s.complete).cmdcnt = s.cmdcnt + 1 := rfl
@[simp] theorem complete_error : (s.complete).error = s.error := rfl
@[simp] theorem complete_done : (s.complete).done = (s.done || s.fifo.isEmpty) := rfl
@[simp] theorem complete_ovf : (s.complete).ovf = s.ovf := rfl
@[simp] theorem complete_cmddrop : (s.complete).cmddrop = s.cmddrop := rfl
@[simp] theorem complete_accerr : (s.complete).accerr = s.accerr := rfl
@[simp] theorem complete_ieDone : (s.complete).ieDone = s.ieDone := rfl
@[simp] theorem complete_ieErr : (s.complete).ieErr = s.ieErr := rfl
@[simp] theorem complete_rstN : (s.complete).rstN = s.rstN := rfl
@[simp] theorem complete_reply : (s.complete).reply = s.reply := rfl
@[simp] theorem complete_turns : (s.complete).turns = s.turns := rfl

@[simp] theorem raise_cfg (code : ErrCode) (o : Option RegName) : (s.raise code o).cfg = s.cfg := rfl
@[simp] theorem raise_f (code : ErrCode) (o : Option RegName) : (s.raise code o).f = s.f := rfl
@[simp] theorem raise_x (code : ErrCode) (o : Option RegName) : (s.raise code o).x = s.x := rfl
@[simp] theorem raise_tFlag (code : ErrCode) (o : Option RegName) : (s.raise code o).tFlag = s.tFlag := rfl
@[simp] theorem raise_fifo (code : ErrCode) (o : Option RegName) : (s.raise code o).fifo = [] := rfl
@[simp] theorem raise_inflight (code : ErrCode) (o : Option RegName) : (s.raise code o).inflight = none := rfl
@[simp] theorem raise_cmdcnt (code : ErrCode) (o : Option RegName) : (s.raise code o).cmdcnt = s.cmdcnt := rfl
@[simp] theorem raise_error (code : ErrCode) (o : Option RegName) : (s.raise code o).error = errorRecord code o (s.inflight.getD 0) s.cmdcnt := rfl
@[simp] theorem raise_done (code : ErrCode) (o : Option RegName) : (s.raise code o).done = s.done := rfl
@[simp] theorem raise_ovf (code : ErrCode) (o : Option RegName) : (s.raise code o).ovf = s.ovf := rfl
@[simp] theorem raise_cmddrop (code : ErrCode) (o : Option RegName) : (s.raise code o).cmddrop = s.cmddrop := rfl
@[simp] theorem raise_accerr (code : ErrCode) (o : Option RegName) : (s.raise code o).accerr = s.accerr := rfl
@[simp] theorem raise_ieDone (code : ErrCode) (o : Option RegName) : (s.raise code o).ieDone = s.ieDone := rfl
@[simp] theorem raise_ieErr (code : ErrCode) (o : Option RegName) : (s.raise code o).ieErr = s.ieErr := rfl
@[simp] theorem raise_rstN (code : ErrCode) (o : Option RegName) : (s.raise code o).rstN = s.rstN := rfl
@[simp] theorem raise_reply (code : ErrCode) (o : Option RegName) : (s.raise code o).reply = s.reply := rfl
@[simp] theorem raise_turns (code : ErrCode) (o : Option RegName) : (s.raise code o).turns = s.turns := rfl

@[simp] theorem clearError_cfg : (s.clearError).cfg = s.cfg := rfl
@[simp] theorem clearError_f : (s.clearError).f = s.f := rfl
@[simp] theorem clearError_x : (s.clearError).x = s.x := rfl
@[simp] theorem clearError_tFlag : (s.clearError).tFlag = s.tFlag := rfl
@[simp] theorem clearError_fifo : (s.clearError).fifo = s.fifo := rfl
@[simp] theorem clearError_inflight : (s.clearError).inflight = s.inflight := rfl
@[simp] theorem clearError_cmdcnt : (s.clearError).cmdcnt = s.cmdcnt := rfl
@[simp] theorem clearError_error : (s.clearError).error = ErrorState.clear := rfl
@[simp] theorem clearError_done : (s.clearError).done = s.done := rfl
@[simp] theorem clearError_ovf : (s.clearError).ovf = s.ovf := rfl
@[simp] theorem clearError_cmddrop : (s.clearError).cmddrop = s.cmddrop := rfl
@[simp] theorem clearError_accerr : (s.clearError).accerr = s.accerr := rfl
@[simp] theorem clearError_ieDone : (s.clearError).ieDone = s.ieDone := rfl
@[simp] theorem clearError_ieErr : (s.clearError).ieErr = s.ieErr := rfl
@[simp] theorem clearError_rstN : (s.clearError).rstN = s.rstN := rfl
@[simp] theorem clearError_reply : (s.clearError).reply = s.reply := rfl
@[simp] theorem clearError_turns : (s.clearError).turns = s.turns := rfl

@[simp] theorem softReset_cfg : (s.softReset).cfg = s.cfg := rfl
@[simp] theorem softReset_f : (s.softReset).f = Vector.replicate 16 FReg.reset := rfl
@[simp] theorem softReset_x : (s.softReset).x = Vector.replicate 16 XReg.reset := rfl
@[simp] theorem softReset_tFlag : (s.softReset).tFlag = false := rfl
@[simp] theorem softReset_fifo : (s.softReset).fifo = [] := rfl
@[simp] theorem softReset_inflight : (s.softReset).inflight = none := rfl
@[simp] theorem softReset_cmdcnt : (s.softReset).cmdcnt = 0 := rfl
@[simp] theorem softReset_error : (s.softReset).error = ErrorState.clear := rfl
@[simp] theorem softReset_done : (s.softReset).done = false := rfl
@[simp] theorem softReset_ovf : (s.softReset).ovf = false := rfl
@[simp] theorem softReset_cmddrop : (s.softReset).cmddrop = false := rfl
@[simp] theorem softReset_accerr : (s.softReset).accerr = false := rfl
@[simp] theorem softReset_ieDone : (s.softReset).ieDone = false := rfl
@[simp] theorem softReset_ieErr : (s.softReset).ieErr = false := rfl
@[simp] theorem softReset_rstN : (s.softReset).rstN = s.rstN := rfl
@[simp] theorem softReset_reply : (s.softReset).reply = none := rfl
@[simp] theorem softReset_turns : (s.softReset).turns = s.turns := rfl

@[simp] theorem refuseRead_cfg : (s.refuseRead).cfg = s.cfg := rfl
@[simp] theorem refuseRead_f : (s.refuseRead).f = s.f := rfl
@[simp] theorem refuseRead_x : (s.refuseRead).x = s.x := rfl
@[simp] theorem refuseRead_tFlag : (s.refuseRead).tFlag = s.tFlag := rfl
@[simp] theorem refuseRead_fifo : (s.refuseRead).fifo = s.fifo := rfl
@[simp] theorem refuseRead_inflight : (s.refuseRead).inflight = s.inflight := rfl
@[simp] theorem refuseRead_cmdcnt : (s.refuseRead).cmdcnt = s.cmdcnt := rfl
@[simp] theorem refuseRead_error : (s.refuseRead).error = s.error := rfl
@[simp] theorem refuseRead_done : (s.refuseRead).done = s.done := rfl
@[simp] theorem refuseRead_ovf : (s.refuseRead).ovf = s.ovf := rfl
@[simp] theorem refuseRead_cmddrop : (s.refuseRead).cmddrop = s.cmddrop := rfl
@[simp] theorem refuseRead_accerr : (s.refuseRead).accerr = true := rfl
@[simp] theorem refuseRead_ieDone : (s.refuseRead).ieDone = s.ieDone := rfl
@[simp] theorem refuseRead_ieErr : (s.refuseRead).ieErr = s.ieErr := rfl
@[simp] theorem refuseRead_rstN : (s.refuseRead).rstN = s.rstN := rfl
@[simp] theorem refuseRead_reply : (s.refuseRead).reply = some 0 := rfl
@[simp] theorem refuseRead_turns : (s.refuseRead).turns = s.turns := rfl

@[simp] theorem refuseWrite_cfg : (s.refuseWrite).cfg = s.cfg := rfl
@[simp] theorem refuseWrite_f : (s.refuseWrite).f = s.f := rfl
@[simp] theorem refuseWrite_x : (s.refuseWrite).x = s.x := rfl
@[simp] theorem refuseWrite_tFlag : (s.refuseWrite).tFlag = s.tFlag := rfl
@[simp] theorem refuseWrite_fifo : (s.refuseWrite).fifo = s.fifo := rfl
@[simp] theorem refuseWrite_inflight : (s.refuseWrite).inflight = s.inflight := rfl
@[simp] theorem refuseWrite_cmdcnt : (s.refuseWrite).cmdcnt = s.cmdcnt := rfl
@[simp] theorem refuseWrite_error : (s.refuseWrite).error = s.error := rfl
@[simp] theorem refuseWrite_done : (s.refuseWrite).done = s.done := rfl
@[simp] theorem refuseWrite_ovf : (s.refuseWrite).ovf = s.ovf := rfl
@[simp] theorem refuseWrite_cmddrop : (s.refuseWrite).cmddrop = s.cmddrop := rfl
@[simp] theorem refuseWrite_accerr : (s.refuseWrite).accerr = true := rfl
@[simp] theorem refuseWrite_ieDone : (s.refuseWrite).ieDone = s.ieDone := rfl
@[simp] theorem refuseWrite_ieErr : (s.refuseWrite).ieErr = s.ieErr := rfl
@[simp] theorem refuseWrite_rstN : (s.refuseWrite).rstN = s.rstN := rfl
@[simp] theorem refuseWrite_reply : (s.refuseWrite).reply = none := rfl
@[simp] theorem refuseWrite_turns : (s.refuseWrite).turns = s.turns := rfl

@[simp] theorem writeStatus_cfg (data : Word) : (s.writeStatus data).cfg = s.cfg := rfl
@[simp] theorem writeStatus_f (data : Word) : (s.writeStatus data).f = s.f := rfl
@[simp] theorem writeStatus_x (data : Word) : (s.writeStatus data).x = s.x := rfl
@[simp] theorem writeStatus_tFlag (data : Word) : (s.writeStatus data).tFlag = s.tFlag := rfl
@[simp] theorem writeStatus_fifo (data : Word) : (s.writeStatus data).fifo = s.fifo := rfl
@[simp] theorem writeStatus_inflight (data : Word) : (s.writeStatus data).inflight = s.inflight := rfl
@[simp] theorem writeStatus_cmdcnt (data : Word) : (s.writeStatus data).cmdcnt = s.cmdcnt := rfl
@[simp] theorem writeStatus_error (data : Word) : (s.writeStatus data).error = s.error := rfl
@[simp] theorem writeStatus_done (data : Word) : (s.writeStatus data).done = (s.done && !data.getLsbD 4) := rfl
@[simp] theorem writeStatus_ovf (data : Word) : (s.writeStatus data).ovf = (s.ovf && !data.getLsbD 5) := rfl
@[simp] theorem writeStatus_cmddrop (data : Word) : (s.writeStatus data).cmddrop = (s.cmddrop && !data.getLsbD 6) := rfl
@[simp] theorem writeStatus_accerr (data : Word) : (s.writeStatus data).accerr = (s.accerr && !data.getLsbD 7) := rfl
@[simp] theorem writeStatus_ieDone (data : Word) : (s.writeStatus data).ieDone = s.ieDone := rfl
@[simp] theorem writeStatus_ieErr (data : Word) : (s.writeStatus data).ieErr = s.ieErr := rfl
@[simp] theorem writeStatus_rstN (data : Word) : (s.writeStatus data).rstN = s.rstN := rfl
@[simp] theorem writeStatus_reply (data : Word) : (s.writeStatus data).reply = s.reply := rfl
@[simp] theorem writeStatus_turns (data : Word) : (s.writeStatus data).turns = s.turns := rfl

@[simp] theorem writeXWord_cfg (i : XIdx) (j : Nat) (data : Word) : (s.writeXWord i j data).cfg = s.cfg := rfl
@[simp] theorem writeXWord_f (i : XIdx) (j : Nat) (data : Word) : (s.writeXWord i j data).f = s.f := rfl
@[simp] theorem writeXWord_x (i : XIdx) (j : Nat) (data : Word) : (s.writeXWord i j data).x = s.x.set i ⟨replaceWord s.cfg (s.xval i) j data, true⟩ := rfl
@[simp] theorem writeXWord_tFlag (i : XIdx) (j : Nat) (data : Word) : (s.writeXWord i j data).tFlag = s.tFlag := rfl
@[simp] theorem writeXWord_fifo (i : XIdx) (j : Nat) (data : Word) : (s.writeXWord i j data).fifo = s.fifo := rfl
@[simp] theorem writeXWord_inflight (i : XIdx) (j : Nat) (data : Word) : (s.writeXWord i j data).inflight = s.inflight := rfl
@[simp] theorem writeXWord_cmdcnt (i : XIdx) (j : Nat) (data : Word) : (s.writeXWord i j data).cmdcnt = s.cmdcnt := rfl
@[simp] theorem writeXWord_error (i : XIdx) (j : Nat) (data : Word) : (s.writeXWord i j data).error = s.error := rfl
@[simp] theorem writeXWord_done (i : XIdx) (j : Nat) (data : Word) : (s.writeXWord i j data).done = s.done := rfl
@[simp] theorem writeXWord_ovf (i : XIdx) (j : Nat) (data : Word) : (s.writeXWord i j data).ovf = s.ovf := rfl
@[simp] theorem writeXWord_cmddrop (i : XIdx) (j : Nat) (data : Word) : (s.writeXWord i j data).cmddrop = s.cmddrop := rfl
@[simp] theorem writeXWord_accerr (i : XIdx) (j : Nat) (data : Word) : (s.writeXWord i j data).accerr = s.accerr := rfl
@[simp] theorem writeXWord_ieDone (i : XIdx) (j : Nat) (data : Word) : (s.writeXWord i j data).ieDone = s.ieDone := rfl
@[simp] theorem writeXWord_ieErr (i : XIdx) (j : Nat) (data : Word) : (s.writeXWord i j data).ieErr = s.ieErr := rfl
@[simp] theorem writeXWord_rstN (i : XIdx) (j : Nat) (data : Word) : (s.writeXWord i j data).rstN = s.rstN := rfl
@[simp] theorem writeXWord_reply (i : XIdx) (j : Nat) (data : Word) : (s.writeXWord i j data).reply = s.reply := rfl
@[simp] theorem writeXWord_turns (i : XIdx) (j : Nat) (data : Word) : (s.writeXWord i j data).turns = s.turns := rfl

@[simp] theorem withCommand_cfg (w : Word) : (s.withCommand w).cfg = s.cfg := rfl
@[simp] theorem withCommand_f (w : Word) : (s.withCommand w).f = s.f := rfl
@[simp] theorem withCommand_x (w : Word) : (s.withCommand w).x = s.x := rfl
@[simp] theorem withCommand_tFlag (w : Word) : (s.withCommand w).tFlag = s.tFlag := rfl
@[simp] theorem withCommand_fifo (w : Word) : (s.withCommand w).fifo = s.fifo := rfl
@[simp] theorem withCommand_inflight (w : Word) : (s.withCommand w).inflight = some w := rfl
@[simp] theorem withCommand_cmdcnt (w : Word) : (s.withCommand w).cmdcnt = s.cmdcnt := rfl
@[simp] theorem withCommand_error (w : Word) : (s.withCommand w).error = s.error := rfl
@[simp] theorem withCommand_done (w : Word) : (s.withCommand w).done = s.done := rfl
@[simp] theorem withCommand_ovf (w : Word) : (s.withCommand w).ovf = s.ovf := rfl
@[simp] theorem withCommand_cmddrop (w : Word) : (s.withCommand w).cmddrop = s.cmddrop := rfl
@[simp] theorem withCommand_accerr (w : Word) : (s.withCommand w).accerr = s.accerr := rfl
@[simp] theorem withCommand_ieDone (w : Word) : (s.withCommand w).ieDone = s.ieDone := rfl
@[simp] theorem withCommand_ieErr (w : Word) : (s.withCommand w).ieErr = s.ieErr := rfl
@[simp] theorem withCommand_rstN (w : Word) : (s.withCommand w).rstN = true := rfl
@[simp] theorem withCommand_reply (w : Word) : (s.withCommand w).reply = s.reply := rfl
@[simp] theorem withCommand_turns (w : Word) : (s.withCommand w).turns = .engine :: s.turns := rfl

@[simp] theorem resetOf_cfg (c : Cfg) : (State.resetOf c).cfg = c := rfl
@[simp] theorem resetOf_f (c : Cfg) : (State.resetOf c).f = Vector.replicate 16 FReg.reset := rfl
@[simp] theorem resetOf_x (c : Cfg) : (State.resetOf c).x = Vector.replicate 16 XReg.reset := rfl
@[simp] theorem resetOf_tFlag (c : Cfg) : (State.resetOf c).tFlag = false := rfl
@[simp] theorem resetOf_fifo (c : Cfg) : (State.resetOf c).fifo = [] := rfl
@[simp] theorem resetOf_inflight (c : Cfg) : (State.resetOf c).inflight = none := rfl
@[simp] theorem resetOf_cmdcnt (c : Cfg) : (State.resetOf c).cmdcnt = 0 := rfl
@[simp] theorem resetOf_error (c : Cfg) : (State.resetOf c).error = ErrorState.clear := rfl
@[simp] theorem resetOf_done (c : Cfg) : (State.resetOf c).done = false := rfl
@[simp] theorem resetOf_ovf (c : Cfg) : (State.resetOf c).ovf = false := rfl
@[simp] theorem resetOf_cmddrop (c : Cfg) : (State.resetOf c).cmddrop = false := rfl
@[simp] theorem resetOf_accerr (c : Cfg) : (State.resetOf c).accerr = false := rfl
@[simp] theorem resetOf_ieDone (c : Cfg) : (State.resetOf c).ieDone = false := rfl
@[simp] theorem resetOf_ieErr (c : Cfg) : (State.resetOf c).ieErr = false := rfl
@[simp] theorem resetOf_rstN (c : Cfg) : (State.resetOf c).rstN = true := rfl
@[simp] theorem resetOf_reply (c : Cfg) : (State.resetOf c).reply = none := rfl
@[simp] theorem resetOf_turns (c : Cfg) : (State.resetOf c).turns = [] := rfl

end Sys2Proof.Machine
end

