-- ==== Sys2Proof/Laws/Ops.lean ====
section
/-! SUPPORT. What the shared operations can do, said once: reading a register after a write, the operand checks, the
start, the completion and the error entry of a command. -/

namespace Sys2Proof.Machine

variable (s : State)

/-! Reading after a write. -/

@[simp] theorem setF_read_same (i : FIdx) (a : FElem) : (s.setF i a).f[i] = ⟨a, true⟩ := by
  simp

theorem setF_read_other {i j : FIdx} (a : FElem) (h : j ≠ i) : (s.setF i a).f[j] = s.f[j] := by
  have h' : (i : Nat) ≠ (j : Nat) := fun e => h (Fin.ext e.symm)
  simp [h']

@[simp] theorem setX_read_same (i : XIdx) (v : Nat) : (s.setX i v).x[i] = ⟨v, true⟩ := by
  simp

theorem setX_read_other {i j : XIdx} (v : Nat) (h : j ≠ i) : (s.setX i v).x[j] = s.x[j] := by
  have h' : (i : Nat) ≠ (j : Nat) := fun e => h (Fin.ext e.symm)
  simp [h']

@[simp] theorem setF_felem_same (i : FIdx) (a : FElem) : (s.setF i a).felem i = a := by
  simp [State.felem]

@[simp] theorem setX_xval_same (i : XIdx) (v : Nat) : (s.setX i v).xval i = v := by
  simp [State.xval]

@[simp] theorem validReg_f (i : FIdx) : s.validReg (.f i) = s.f[i].valid := rfl

@[simp] theorem validReg_x (i : XIdx) : s.validReg (.x i) = s.x[i].valid := rfl

/-! The operand checks. -/

theorem firstInvalid_none_iff (srcs : List RegName) :
    firstInvalid s srcs = none ↔ ∀ r ∈ srcs, s.validReg r = true := by
  induction srcs with
  | nil => simp [firstInvalid]
  | cons r rest ih => by_cases h : s.validReg r <;> simp [firstInvalid, h, ih]

/-- The register an operand check names: it is invalid, and every source before it is valid
(30_encoding.md R108). -/
theorem firstInvalid_some_iff (srcs : List RegName) (r : RegName) :
    firstInvalid s srcs = some r ↔
      ∃ before after, srcs = before ++ r :: after ∧ s.validReg r = false ∧ ∀ q ∈ before, s.validReg q = true := by
  induction srcs with
  | nil => simp [firstInvalid]
  | cons q rest ih =>
    by_cases h : s.validReg q
    · rw [firstInvalid, if_pos h, ih]
      constructor
      · rintro ⟨before, after, rfl, hr, hb⟩
        exact ⟨q :: before, after, rfl, hr, by simpa [h] using hb⟩
      · rintro ⟨before, after, he, hr, hb⟩
        cases before with
        | nil =>
          obtain ⟨rfl, rfl⟩ := by simpa using he
          simp [h] at hr
        | cons b before =>
          obtain ⟨rfl, rfl⟩ := by simpa using he
          exact ⟨before, after, rfl, hr, fun x hx => hb x (List.mem_cons_of_mem _ hx)⟩
    · rw [firstInvalid, if_neg h]
      constructor
      · rintro he
        obtain rfl : q = r := by simpa using he
        exact ⟨[], rest, rfl, by simpa using h, by simp⟩
      · rintro ⟨before, after, he, hr, hb⟩
        cases before with
        | nil => simp at he; simp [he.1]
        | cons b before =>
          obtain ⟨rfl, -⟩ := by simpa using he
          exact absurd (hb q (by simp)) h

/-- An operand check passes, or raises `E_UNINIT` naming the first invalid source. -/
theorem checked_cases (srcs : List RegName) (go : State) :
    (firstInvalid s srcs = none ∧ s.checked srcs go = go) ∨
      ∃ r, firstInvalid s srcs = some r ∧ s.checked srcs go = s.raise .uninit (some r) := by
  unfold State.checked
  cases h : firstInvalid s srcs with
  | none => exact .inl ⟨rfl, rfl⟩
  | some r => exact .inr ⟨r, rfl, rfl⟩

theorem checked_of_valid {srcs : List RegName} (go : State) (h : ∀ r ∈ srcs, s.validReg r = true) :
    s.checked srcs go = go := by
  rw [State.checked, (firstInvalid_none_iff s srcs).2 h]

theorem checked_of_invalid {srcs : List RegName} {r : RegName} (go : State) (h : firstInvalid s srcs = some r) :
    s.checked srcs go = s.raise .uninit (some r) := by
  rw [State.checked, h]

/-! The start of a command. -/

/-- What the engine can do when it has nothing in flight: begin the head of the FIFO, or nothing
(10_state.md R45). -/
theorem beginCommand_cases :
    s.beginCommand = s ∨
      ∃ w rest, s.inflight = none ∧ s.error.err = false ∧ s.fifo = w :: rest ∧
        s.beginCommand = { s with inflight := some w, fifo := rest } := by
  unfold State.beginCommand State.busy
  split
  · exact .inl rfl
  · rename_i h
    cases hf : s.fifo with
    | nil => exact .inl rfl
    | cons w rest =>
      have h' : s.inflight = none ∧ s.error.err = false := by simpa using h
      exact .inr ⟨w, rest, h'.1, h'.2, rfl, rfl⟩

/-! The error record. -/

theorem errorRecord_err (code : ErrCode) (o : Option RegName) (w : Word) (idx : BitVec 32) :
    (errorRecord code o w idx).err = true := by cases o <;> rfl

theorem errorRecord_ecode (code : ErrCode) (o : Option RegName) (w : Word) (idx : BitVec 32) :
    (errorRecord code o w idx).ecode = code := by cases o <;> rfl

end Sys2Proof.Machine
end

