-- ==== Sys2Proof/Laws/Exec.lean ====
section
/-! SUPPORT. What a command and a step can do, said once: the inversion lemmas that proofs about every command and
every step cite. -/

namespace Sys2Proof.Machine

/-- A state that differs from another at most in the two register files and the flag T. -/
def RegistersOnly (s u : State) : Prop := ∃ f x b, u = { s with f := f, x := x, tFlag := b }

theorem RegistersOnly.refl (s : State) : RegistersOnly s s := ⟨s.f, s.x, s.tFlag, rfl⟩

theorem RegistersOnly.setF {s u : State} (h : RegistersOnly s u) (i : FIdx) (a : FElem) :
    RegistersOnly s (u.setF i a) := by
  obtain ⟨f, x, b, rfl⟩ := h
  exact ⟨f.set i ⟨a, true⟩, x, b, rfl⟩

theorem RegistersOnly.setX {s u : State} (h : RegistersOnly s u) (i : XIdx) (v : Nat) :
    RegistersOnly s (u.setX i v) := by
  obtain ⟨f, x, b, rfl⟩ := h
  exact ⟨f, x.set i ⟨v, true⟩, b, rfl⟩

theorem RegistersOnly.setT {s u : State} (h : RegistersOnly s u) (v : Bool) : RegistersOnly s (u.setT v) := by
  obtain ⟨f, x, b, rfl⟩ := h
  exact ⟨f, x, v, rfl⟩

/-- What a command leads to: an error entry, or the completion of some register and flag writes. -/
def CommandResult (s t : State) : Prop :=
  (∃ code o, code ≠ ErrCode.none ∧ t = s.raise code o) ∨ ∃ u, RegistersOnly s u ∧ t = u.complete

theorem CommandResult.of_complete {s u : State} (h : RegistersOnly s u) : CommandResult s u.complete :=
  .inr ⟨u, h, rfl⟩

theorem CommandResult.of_raise (s : State) {code : ErrCode} (o : Option RegName) (h : code ≠ .none) :
    CommandResult s (s.raise code o) := .inl ⟨code, o, h, rfl⟩

theorem CommandResult.of_checked {s go : State} (srcs : List RegName) (h : CommandResult s go) :
    CommandResult s (s.checked srcs go) := by
  rcases checked_cases s srcs go with ⟨-, e⟩ | ⟨r, -, e⟩
  · rwa [e]
  · rw [e]
    exact .of_raise s _ (by decide)

/-- Every command answers a next state, and that state is an error entry or a completion (60_exceptions.md R287). -/
theorem exec_result (i : Instr) (s : State) : ∃ t, exec i s = .next t ∧ CommandResult s t := by
  have r := RegistersOnly.refl s
  cases i with
  | nop => exact ⟨_, rfl, .of_complete r⟩
  | zero d => exact ⟨_, rfl, .of_complete (r.setF _ _)⟩
  | one d => exact ⟨_, rfl, .of_complete (r.setF _ _)⟩
  | copy d a => exact ⟨_, rfl, .of_checked _ (.of_complete (r.setF _ _))⟩
  | ldc d k => exact ⟨_, rfl, .of_complete (r.setF _ _)⟩
  | tores d a =>
    refine ⟨_, rfl, .of_checked _ ?_⟩
    split
    · exact .of_raise s _ (by decide)
    · exact .of_complete (r.setF _ _)
  | fromres d a => exact ⟨_, rfl, .of_checked _ (.of_complete (r.setX _ _))⟩
  | rdd d a b =>
    refine ⟨_, rfl, .of_checked _ ?_⟩
    split
    · exact .of_raise s _ (by decide)
    · exact .of_complete (r.setX _ _)
  | add d a b => exact ⟨_, rfl, .of_checked _ (.of_complete (r.setF _ _))⟩
  | sub d a b => exact ⟨_, rfl, .of_checked _ (.of_complete (r.setF _ _))⟩
  | neg d a => exact ⟨_, rfl, .of_checked _ (.of_complete (r.setF _ _))⟩
  | mul d a b => exact ⟨_, rfl, .of_checked _ (.of_complete (r.setF _ _))⟩
  | sqr d a => exact ⟨_, rfl, .of_checked _ (.of_complete (r.setF _ _))⟩
  | imul d a k => exact ⟨_, rfl, .of_checked _ (.of_complete (r.setF _ _))⟩
  | half d a => exact ⟨_, rfl, .of_checked _ (.of_complete (r.setF _ _))⟩
  | fred d a => exact ⟨_, rfl, .of_checked _ (.of_complete (r.setF _ _))⟩
  | pow d a b => exact ⟨_, rfl, .of_checked _ (.of_complete (r.setF _ _))⟩
  | inv d a => exact ⟨_, rfl, .of_checked _ (.of_complete (r.setF _ _))⟩
  | sqrt d a =>
    refine ⟨_, rfl, .of_checked _ ?_⟩
    split
    · exact .of_raise s _ (by decide)
    · split
      · exact .of_complete (r.setF _ _)
      · exact .of_complete (r.setF _ _)
  | qr a => exact ⟨_, rfl, .of_checked _ (.of_complete (r.setT _))⟩
  | isz a => exact ⟨_, rfl, .of_checked _ (.of_complete (r.setT _))⟩
  | equ a b => exact ⟨_, rfl, .of_checked _ (.of_complete (r.setT _))⟩
  | cswap d a sel c =>
    refine ⟨_, rfl, .of_checked _ ?_⟩
    split
    · exact .of_complete ((r.setF _ _).setF _ _)
    · exact .of_complete ((r.setF _ _).setF _ _)
  | cmov d a sel c => exact ⟨_, rfl, .of_checked _ (.of_complete (r.setF _ _))⟩

/-- The engine executing a word: the command it decodes to, or `E_ILLEGAL`. -/
theorem executeWord_result (w : Word) (s : State) : ∃ t, executeWord w s = .next t ∧ CommandResult s t := by
  unfold executeWord
  cases decode w with
  | ok i => exact exec_result i s
  | error e => exact ⟨_, rfl, .of_raise s _ (by decide)⟩

/-- Whose turn a step takes and what it leads to, for every state of a well-formed build. -/
theorem step_cases {s t : State} (h : step s = .next t) :
    (∃ rest, (s.turns = [] ∧ rest = [] ∨ s.turns = .engine :: rest) ∧ engineTurn { s with turns := rest } = .next t) ∨
      (∃ a rest, s.turns = .host a :: rest ∧ t = State.hostAccess { s with turns := rest } a) ∨
      ∃ level rest, s.turns = .resetPin level :: rest ∧ t = State.setResetPin { s with turns := rest } level := by
  unfold step at h
  split at h
  · unfold takeTurn at h
    split at h
    · rename_i he
      refine .inl ⟨[], .inl ⟨he, rfl⟩, ?_⟩
      rw [← h]
      congr 1
      rw [← he]
    · rename_i rest he
      exact .inl ⟨rest, .inr he, h⟩
    · rename_i a rest he
      exact .inr (.inl ⟨a, rest, he, (Host.Outcome.next.inj h).symm⟩)
    · rename_i level rest he
      exact .inr (.inr ⟨level, rest, he, (Host.Outcome.next.inj h).symm⟩)
  · cases h

/-- What the engine's turn can do: nothing, begin a command, or execute the word in flight. -/
theorem engineTurn_cases {s t : State} (h : engineTurn s = .next t) :
    (s.rstN = false ∧ t = s) ∨ (s.rstN = true ∧ s.inflight = none ∧ t = s.beginCommand) ∨
      ∃ w, s.rstN = true ∧ s.inflight = some w ∧ executeWord w s = .next t := by
  unfold engineTurn at h
  split at h
  · rename_i hr
    split at h
    · rename_i w hw
      exact .inr (.inr ⟨w, hr, hw, h⟩)
    · rename_i hn
      exact .inr (.inl ⟨hr, hn, (Host.Outcome.next.inj h).symm⟩)
  · rename_i hr
    exact .inl ⟨by simpa using hr, (Host.Outcome.next.inj h).symm⟩

end Sys2Proof.Machine
end

