-- ==== Sys2Proof/Laws/Moves.lean ====
section
/-! SUPPORT. What a step is when the engine or the host moves, and what completing a command and entering an error do,
in the terms of Sys2Proof/Safety.lean. -/

namespace Sys2Proof.Machine

/-- When the host moves, the step is its access. -/
theorem step_of_hostMoves {s : State} {a : Access} {rest : List Turn} (h : HostMoves s a rest) :
    step s = .next (State.hostAccess { s with turns := rest } a) := by
  simp [step, h.build, takeTurn, h.turn]

/-- When the engine moves, the step is its turn. -/
theorem step_of_engineMoves {s : State} {rest : List Turn} (h : EngineMoves s rest) :
    step s = engineTurn { s with turns := rest } := by
  obtain ⟨hb, -, ⟨ht, rfl⟩ | ht⟩ := h
  · simp only [step, hb, if_true, takeTurn, ht]
    congr 1
    rw [← ht]
  · simp [step, hb, takeTurn, ht]

/-- Completing after register and flag writes alone is a completion. -/
theorem RegistersOnly.completed {s u : State} (h : RegistersOnly s u) : Completed s u.complete := by
  obtain ⟨f, x, b, rfl⟩ := h
  constructor <;> rfl

/-- Raising an error is an error entry. -/
theorem raise_entersError (s : State) (code : ErrCode) (o : Option RegName) :
    EntersError s (s.raise code o) code o := by
  cases o <;> constructor <;> simp [errorRecord] <;> intros <;> simp_all

/-- Writing one F register and completing. -/
theorem setF_complete_writesF (s : State) (d : FIdx) (a : FElem) : WritesF s (s.setF d a).complete d a where
  completed := ((RegistersOnly.refl s).setF d a).completed
  dest := setF_read_same s d a
  others _ hi := setF_read_other s a hi
  x := rfl
  flag := rfl

/-- Writing one X register and completing. -/
theorem setX_complete_writesX (s : State) (d : XIdx) (v : Nat) : WritesX s (s.setX d v).complete d v where
  completed := ((RegistersOnly.refl s).setX d v).completed
  dest := setX_read_same s d v
  others _ hi := setX_read_other s v hi
  f := rfl
  flag := rfl

/-- Writing the flag and completing. -/
theorem setT_complete_writesT (s : State) (b : Bool) : WritesT s (s.setT b).complete b where
  completed := ((RegistersOnly.refl s).setT b).completed
  flag := rfl
  f := rfl
  x := rfl

end Sys2Proof.Machine
end

