-- ==== Sys2Proof/Laws/PerInstr.lean ====
section
/-! SUPPORT. Laws of the commands as syntax, one lemma per constructor of `Instr`. -/

namespace Sys2Proof.Laws

/-- The word of a command carries its opcode: the OP field of the encoding names the command's own row
(30_encoding.md R101, R105). -/
def OpcodeField.Statement (i : Instr) : Prop := opcodeOfField (fieldOp (encode i)) = some i.opcode

/-- The OP field of a word laid out from its fields. -/
theorem fieldOp_wordOfFields (op : BitVec 6) (d a b : BitVec 4) (imm : BitVec 14) :
    fieldOp (wordOfFields op d a b imm) = op.toNat := by
  unfold fieldOp
  congr 1
  apply BitVec.eq_of_getLsbD_eq
  intro j hj
  simp only [wordOfFields, BitVec.getLsbD_extractLsb', BitVec.getLsbD_append, hj, decide_true, Bool.true_and]
  have h1 : ¬ (26 + j < 14) := by omega
  have h2 : ¬ (26 + j - 14 < 4) := by omega
  have h3 : ¬ (26 + j - 14 - 4 < 4) := by omega
  have h4 : ¬ (26 + j - 14 - 4 - 4 < 4) := by omega
  simp only [h1, h2, h3, h4, if_false]
  congr 1
  omega

theorem OpcodeField.nop : OpcodeField.Statement .nop := by
  simp only [OpcodeField.Statement, encode, fieldOp_wordOfFields]
  rfl

theorem OpcodeField.zero (d : FIdx) : OpcodeField.Statement (.zero d) := by
  simp only [OpcodeField.Statement, encode, fieldOp_wordOfFields]
  rfl

theorem OpcodeField.one (d : FIdx) : OpcodeField.Statement (.one d) := by
  simp only [OpcodeField.Statement, encode, fieldOp_wordOfFields]
  rfl

theorem OpcodeField.copy (d a : FIdx) : OpcodeField.Statement (.copy d a) := by
  simp only [OpcodeField.Statement, encode, fieldOp_wordOfFields]
  rfl

theorem OpcodeField.ldc (d : FIdx) (k : Fin 16) : OpcodeField.Statement (.ldc d k) := by
  simp only [OpcodeField.Statement, encode, fieldOp_wordOfFields]
  rfl

theorem OpcodeField.tores (d : FIdx) (a : XIdx) : OpcodeField.Statement (.tores d a) := by
  simp only [OpcodeField.Statement, encode, fieldOp_wordOfFields]
  rfl

theorem OpcodeField.fromres (d : XIdx) (a : FIdx) : OpcodeField.Statement (.fromres d a) := by
  simp only [OpcodeField.Statement, encode, fieldOp_wordOfFields]
  rfl

theorem OpcodeField.rdd (d a b : XIdx) : OpcodeField.Statement (.rdd d a b) := by
  simp only [OpcodeField.Statement, encode, fieldOp_wordOfFields]
  rfl

theorem OpcodeField.add (d a b : FIdx) : OpcodeField.Statement (.add d a b) := by
  simp only [OpcodeField.Statement, encode, fieldOp_wordOfFields]
  rfl

theorem OpcodeField.sub (d a b : FIdx) : OpcodeField.Statement (.sub d a b) := by
  simp only [OpcodeField.Statement, encode, fieldOp_wordOfFields]
  rfl

theorem OpcodeField.neg (d a : FIdx) : OpcodeField.Statement (.neg d a) := by
  simp only [OpcodeField.Statement, encode, fieldOp_wordOfFields]
  rfl

theorem OpcodeField.mul (d a b : FIdx) : OpcodeField.Statement (.mul d a b) := by
  simp only [OpcodeField.Statement, encode, fieldOp_wordOfFields]
  rfl

theorem OpcodeField.sqr (d a : FIdx) : OpcodeField.Statement (.sqr d a) := by
  simp only [OpcodeField.Statement, encode, fieldOp_wordOfFields]
  rfl

theorem OpcodeField.imul (d a : FIdx) (k : Int) : OpcodeField.Statement (.imul d a k) := by
  simp only [OpcodeField.Statement, encode, fieldOp_wordOfFields]
  rfl

theorem OpcodeField.half (d a : FIdx) : OpcodeField.Statement (.half d a) := by
  simp only [OpcodeField.Statement, encode, fieldOp_wordOfFields]
  rfl

theorem OpcodeField.fred (d a : FIdx) : OpcodeField.Statement (.fred d a) := by
  simp only [OpcodeField.Statement, encode, fieldOp_wordOfFields]
  rfl

theorem OpcodeField.pow (d a : FIdx) (b : XIdx) : OpcodeField.Statement (.pow d a b) := by
  simp only [OpcodeField.Statement, encode, fieldOp_wordOfFields]
  rfl

theorem OpcodeField.inv (d a : FIdx) : OpcodeField.Statement (.inv d a) := by
  simp only [OpcodeField.Statement, encode, fieldOp_wordOfFields]
  rfl

theorem OpcodeField.sqrt (d a : FIdx) : OpcodeField.Statement (.sqrt d a) := by
  simp only [OpcodeField.Statement, encode, fieldOp_wordOfFields]
  rfl

theorem OpcodeField.qr (a : FIdx) : OpcodeField.Statement (.qr a) := by
  simp only [OpcodeField.Statement, encode, fieldOp_wordOfFields]
  rfl

theorem OpcodeField.isz (a : FIdx) : OpcodeField.Statement (.isz a) := by
  simp only [OpcodeField.Statement, encode, fieldOp_wordOfFields]
  rfl

theorem OpcodeField.equ (a b : FIdx) : OpcodeField.Statement (.equ a b) := by
  simp only [OpcodeField.Statement, encode, fieldOp_wordOfFields]
  rfl

theorem OpcodeField.cswap (d a : FIdx) (sel c : Bool) : OpcodeField.Statement (.cswap d a sel c) := by
  simp only [OpcodeField.Statement, encode, fieldOp_wordOfFields]
  rfl

theorem OpcodeField.cmov (d a : FIdx) (sel c : Bool) : OpcodeField.Statement (.cmov d a sel c) := by
  simp only [OpcodeField.Statement, encode, fieldOp_wordOfFields]
  rfl

end Sys2Proof.Laws
end

