-- ==== Sys2Proof/Laws/Run.lean ====
section
/-! SUPPORT. What the run of a command sequence does, one step at a time. -/

namespace Sys2Proof.Machine

theorem idle_iff (s : State) : s.idle = true ↔ s.inflight = none ∧ s.fifo = [] := by
  simp [State.idle, State.busy]

theorem isCmdWrite_iff (turn : Turn) :
    turn.isCmdWrite = true ↔ ∃ data, turn = .host (.write 0x028 .bits32 data) := by
  unfold Turn.isCmdWrite
  split
  · simp
  · rename_i h
    simp only [Bool.false_eq_true, false_iff, not_exists]
    rintro data rfl
    exact h _ _ rfl

/-- A sequence that has ended is its own result. -/
theorem runToEnd_of_ended {s : State} (h : s.ended = true) (k : Nat) : runToEnd k s = some s := by
  cases k <;> simp [runToEnd, h]

/-- A sequence that has not ended goes on with the next step. -/
theorem runToEnd_succ {s t : State} (h : s.ended = false) (hs : step s = .next t) (k : Nat) :
    runToEnd (k + 1) s = runToEnd k t := by
  rw [runToEnd]
  simp [h, hs]

/-- What a run with a result can be: it had ended, or it took a step and ran on. -/
theorem runToEnd_cases {k : Nat} {s t : State} (h : runToEnd k s = some t) :
    (s.ended = true ∧ t = s) ∨
      ∃ j u, k = j + 1 ∧ s.ended = false ∧ step s = .next u ∧ runToEnd j u = some t := by
  by_cases he : s.ended = true
  · rw [runToEnd_of_ended he] at h
    exact .inl ⟨he, (Option.some.inj h).symm⟩
  · have he' : s.ended = false := by simpa using he
    cases k with
    | zero => simp [runToEnd, he'] at h
    | succ j =>
      cases hs : step s with
      | next u => exact .inr ⟨j, u, rfl, he', rfl, by rwa [runToEnd_succ he' hs] at h⟩
      | fault r => simp [runToEnd, he', hs] at h
      | refused r => simp [runToEnd, he', hs] at h

end Sys2Proof.Machine
end

