-- ==== Sys2Proof/Tests/Slice0.lean ====
section
/-! SUPPORT. Tests of the model, with the expected results of spec/ (30_encoding.md R105 and R111, 95_test_vectors.md,
00_scope.md R10), and, for every statement that has hypotheses, a witness that meets them. -/

namespace Sys2Proof.Tests

open Sys2Proof Sys2Proof.Machine

set_option Elab.async false

/-! ## The states the tests start from -/

/-- GEN7 with the elements 5 and 3 in `F[0]` and `F[1]`, and the integers 5 and 3 in `X[0]` and `X[4]`
(95_test_vectors.md, conventions). -/
def gen7 : State :=
  ((((State.resetOf Config.gen7).setF 0 ⟨474836333, 2⟩).setF 1 ⟨884901804, 2⟩).setX 0 5).setX 4 3

/-- PM127 with the elements 5 and 3 in `F[0]` and `F[1]`. -/
def pm127 : State := ((State.resetOf Config.pm127).setF 0 ⟨5, 1⟩).setF 1 ⟨3, 1⟩

/-- GEN5 with 4 in `F[0]` (44_inv_sqrt.md R247). -/
def gen5 : State := (State.resetOf Config.gen5).setF 0 ⟨179868827, 2⟩

/-- GEN1 with 4 in `F[0]` (95_test_vectors.md P4). -/
def gen1 : State := (State.resetOf Config.gen1).setF 0 ⟨179869031, 2⟩

/-- GM448 with the element `2^224` in `F[0]` (95_test_vectors.md 2.3). -/
def gm448 : State := (State.resetOf Config.gm448).setF 0 ⟨2 ^ 224, 1⟩

/-- MF12 with 5 in `F[0]` (95_test_vectors.md 2.2). -/
def mf12 : State := (State.resetOf Config.mf12).setF 0 ⟨551594, 2⟩

/-- GEN7 with a word in flight, the engine to move. -/
def running (w : Word) : State := gen7.withCommand w

/-- GEN7 with one access of the host to come. -/
def hosted (a : Access) : State := { gen7 with turns := [.host a] }

/-- GEN7 stopped by an error, with one turn to come. -/
def stopped (turn : Turn) : State := { (running 0x60000000).raise .illegal none with turns := [turn] }

/-- The next state of an outcome. -/
def nextOf : Host.Outcome State Fault Refusal → Option State
  | .next t => some t
  | _ => none

/-- `F[d]` after a command. -/
def fAfter (i : Instr) (s : State) (d : FIdx) : Option FReg := (nextOf (exec i s)).map fun t => t.f[d]

/-- `X[d]` after a command. -/
def xAfter (i : Instr) (s : State) (d : XIdx) : Option XReg := (nextOf (exec i s)).map fun t => t.x[d]

/-- T after a command. -/
def tAfter (i : Instr) (s : State) : Option Bool := (nextOf (exec i s)).map fun t => t.tFlag

/-- `ERRINFO`, `ERRCMD` and `ERRIDX` after the step of a state. -/
def errorAfter (s : State) : Option (Word × Word × Word) :=
  (nextOf (step s)).map fun t => (t.error.infoWord, t.error.errcmd, t.error.erridx)

/-- What the host reads at an offset. -/
def readAt (s : State) (off : BitVec 14) : Option (Option Word × Bool) :=
  (nextOf (step { s with turns := [.host (.read off .bits32)] })).map fun t => (t.reply, t.accerr)

/-! ## WellFormed: each check refuses an ill-formed term -/

theorem test_wellFormed_refuses_scalar_above : Instr.wellFormed (.imul 0 0 128) = false := by decide
theorem test_wellFormed_refuses_scalar_below : Instr.wellFormed (.imul 0 0 (-129)) = false := by decide
theorem test_wellFormed_takes_scalar_bounds :
    Instr.wellFormed (.imul 0 0 127) = true ∧ Instr.wellFormed (.imul 0 0 (-128)) = true := by decide
theorem test_wellFormed_refuses_cswap_pair : Instr.wellFormed (.cswap 0 1 true true) = false := by decide
theorem test_wellFormed_refuses_cmov_pair : Instr.wellFormed (.cmov 0 1 true true) = false := by decide

/-! ## Decoding: a word of every command, written out from 30_encoding.md R101 and R105 as OP, D, A, B, IMM -/

theorem test_decode_nop : decode (0b000000_0000_0000_0000_00000000000000 : Word) = .ok .nop := rfl
theorem test_decode_zero : decode (0b000001_0011_0000_0000_00000000000000 : Word) = .ok (.zero 3) := rfl
theorem test_decode_one : decode (0b000010_0001_0000_0000_00000000000000 : Word) = .ok (.one 1) := rfl
theorem test_decode_copy : decode (0b000011_0001_1100_0000_00000000000000 : Word) = .ok (.copy 1 12) := rfl
theorem test_decode_ldc : decode (0b000100_1000_0000_0000_00000000000011 : Word) = .ok (.ldc 8 3) := rfl
theorem test_decode_tores : decode (0b000101_0001_0010_0000_00000000000000 : Word) = .ok (.tores 1 2) := rfl
theorem test_decode_fromres : decode (0b000110_0010_1001_0000_00000000000000 : Word) = .ok (.fromres 2 9) := rfl
theorem test_decode_rdd : decode (0b000111_0011_0001_0010_00000000000000 : Word) = .ok (.rdd 3 1 2) := rfl
theorem test_decode_add : decode (0b001000_0010_0000_0001_00000000000000 : Word) = .ok (.add 2 0 1) := rfl
theorem test_decode_sub : decode (0b001001_1111_0100_1010_00000000000000 : Word) = .ok (.sub 15 4 10) := rfl
theorem test_decode_neg : decode (0b001010_0010_0111_0000_00000000000000 : Word) = .ok (.neg 2 7) := rfl
theorem test_decode_mul : decode (0b001011_0011_0101_0110_00000000000000 : Word) = .ok (.mul 3 5 6) := rfl
theorem test_decode_sqr : decode (0b001100_0010_1101_0000_00000000000000 : Word) = .ok (.sqr 2 13) := rfl
theorem test_decode_imul : decode (0b001101_0001_0000_0000_00000011111011 : Word) = .ok (.imul 1 0 (-5)) := rfl
theorem test_decode_half : decode (0b001110_0010_0100_0000_00000000000000 : Word) = .ok (.half 2 4) := rfl
theorem test_decode_fred : decode (0b001111_0101_0110_0000_00000000000000 : Word) = .ok (.fred 5 6) := rfl
theorem test_decode_pow : decode (0b010000_0001_0000_0100_00000000000000 : Word) = .ok (.pow 1 0 4) := rfl
theorem test_decode_inv : decode (0b010001_0001_1000_0000_00000000000000 : Word) = .ok (.inv 1 8) := rfl
theorem test_decode_sqrt : decode (0b010010_0010_0001_0000_00000000000000 : Word) = .ok (.sqrt 2 1) := rfl
theorem test_decode_qr : decode (0b010011_0000_0011_0000_00000000000000 : Word) = .ok (.qr 3) := rfl
theorem test_decode_isz : decode (0b010100_0000_0101_0000_00000000000000 : Word) = .ok (.isz 5) := rfl
theorem test_decode_equ : decode (0b010101_0000_0001_0010_00000000000000 : Word) = .ok (.equ 1 2) := rfl
theorem test_decode_cswap : decode (0b010110_0000_0001_0000_00000000000010 : Word) = .ok (.cswap 0 1 true false) := rfl
theorem test_decode_cmov : decode (0b010111_0010_0000_0000_00000000000001 : Word) = .ok (.cmov 2 0 false true) := rfl

/-- Illegal words, each with its reason (95_test_vectors.md 2.1; 30_encoding.md R106). -/
theorem test_decode_illegal :
    decode 0x58040003 = .error .reservedCondition ∧ decode 0x20804001 = .error .mustBeZeroBit ∧
      decode 0x60000000 = .error .reservedOpcode ∧ decode 0xFC000000 = .error .reservedOpcode ∧
      decode 0x54400000 = .error .mustBeZeroBit := ⟨rfl, rfl, rfl, rfl, rfl⟩

/-- Every opcode, in the order of 30_encoding.md R105. -/
def opcodes : List Opcode :=
  [.nop, .zero, .one, .copy, .ldc, .tores, .fromres, .rdd, .add, .sub, .neg, .mul, .sqr, .imul, .half, .fred, .pow,
    .inv, .sqrt, .qr, .isz, .equ, .cswap, .cmov]

/-- The mask of a row is the OP field and the bits its format requires to be 0 (30_encoding.md R102, R105). -/
theorem test_masks_are_formats :
    ∀ o ∈ opcodes, o.row.mask = 0xFC000000 ||| o.row.format.mustBeZero ∧
      o.row.pattern = o.row.op.setWidth 32 <<< 26 := by decide

theorem test_decodeTableWord : decodeTableWord 32 0x1CC48000 = some (.rdd 3 1 2) := by decide

/-! ## Assembler (30_encoding.md R109, R110) -/

theorem test_assemble_pseudo :
    assembleLine "  dbl f2, f0 ; twice" = some [encode (.add 2 0 0)] ∧
      assembleLine "swap f3,f4" = some [encode (.cswap 3 4 false true)] := by decide +kernel
theorem test_assemble_errors :
    assembleLine "imul f1, f0, #128" = none ∧ assembleLine "tores f0, f0" = none ∧
      assembleLine "ldc f0, #16" = none ∧ assembleLine "copy f0, f16" = none := by decide +kernel
theorem test_assemble_comment : assembleLine "; nothing" = some [] := by decide +kernel

/-! ## Builds -/

/-- The constants of the default build as 00_scope.md R10 gives them. -/
theorem test_bls381_constants :
    Config.bls381.gw = 406 ∧
      Config.bls381.r2 = 0x19ea66a2b13c5b3fb47e72f38a6de8fb36639944712d8c5c3976e2d09b54e6e2cd249131918b764fa20639a1d5bef7ae ∧
      rep Config.bls381 1 = 0x13317c30f3a0d636d56a23c34fdd80b891ecbde7c2b7d6e16b0f4b0b7e6d26cb6147acde629c4a23c57400d203a9fb84 := by
  decide +kernel

/-- The profiles of 00_scope.md R10 and 92_eei_decisions.md D3 are well formed. -/
theorem test_profiles_wellFormed :
    ∀ c ∈ [Config.bls381, Config.pm127, Config.gen7, Config.gen5, Config.gen1, Config.mf12, Config.gm448],
      c.wellFormed = true := by decide +kernel

/-- GEN7 with a capacity that WF2 excludes. -/
def tightBuild : Cfg := { Config.gen7 with cap := 5 }

theorem test_ill_formed_build_is_refused : step (State.resetOf tightBuild) = .refused .illFormedBuild := by
  have : tightBuild.wellFormed = false := by decide +kernel
  simp [step, this]

/-! ## The commands (95_test_vectors.md 2.2 to 2.8; 40_residue.md to 45_utility.md, examples) -/

theorem test_tores_five : fAfter (.tores 3 0) gen7 3 = some ⟨⟨474836333, 2⟩, true⟩ := by decide +kernel
theorem test_tores_above_p : fAfter (.tores 3 0) (gen7.setX 0 44449) 3 = some ⟨⟨1000003562, 2⟩, true⟩ := by
  decide +kernel
theorem test_fromres_five : xAfter (.fromres 1 0) gen7 1 = some ⟨5, true⟩ := by decide +kernel
theorem test_fromres_zero_is_p : xAfter (.fromres 1 0) (gen7.setF 0 ⟨1000000007, 1⟩) 1 = some ⟨1000000007, true⟩ := by
  decide +kernel
theorem test_ldc_rom :
    fAfter (.ldc 0 3) { pm127 with cfg := { Config.pm127 with crom := Config.zeroCrom.set 3 (2 ^ 127 - 3) } } 0 =
      some ⟨⟨2 ^ 127 - 3, 1⟩, true⟩ := by decide +kernel
theorem test_ldc_zero : fAfter (.ldc 9 15) gen7 9 = some ⟨⟨0, 2⟩, true⟩ := by decide +kernel
theorem test_rdd_product :
    xAfter (.rdd 3 1 2) ((gen7.setX 1 28389652).setX 2 4227814277) 3 = some ⟨842205546, true⟩ := by decide +kernel
theorem test_rdd_bound :
    xAfter (.rdd 3 1 2) ((gen7.setX 1 931322587).setX 2 2808885444) 3 = some ⟨1000000007, true⟩ := by decide +kernel
theorem test_add_at_capacity : fAfter (.add 2 0 1) gen7 2 = some ⟨⟨1359738137, 4⟩, true⟩ := by decide +kernel
theorem test_add_over_capacity :
    fAfter (.add 2 0 1) ((gen7.setF 0 ⟨1000000008, 2⟩).setF 1 ⟨2000000015, 3⟩) 2 = some ⟨⟨2, 1⟩, true⟩ := by
  decide +kernel
theorem test_sub_gen7 : fAfter (.sub 2 0 1) gen7 2 = some ⟨⟨1589934543, 4⟩, true⟩ := by decide +kernel
theorem test_sub_pm127 : fAfter (.sub 2 1 0) pm127 2 = some ⟨⟨2 ^ 127 - 3, 2⟩, true⟩ := by decide +kernel
theorem test_neg_zero : fAfter (.neg 2 0) (gen7.setF 0 ⟨0, 1⟩) 2 = some ⟨⟨1000000007, 1⟩, true⟩ := by decide +kernel
theorem test_neg_excess_three : fAfter (.neg 2 0) (gen7.setF 0 ⟨7, 3⟩) 2 = some ⟨⟨4000000021, 4⟩, true⟩ := by
  decide +kernel
theorem test_mul_gen7 : fAfter (.mul 2 0 1) gen7 2 = some ⟨⟨424508992, 2⟩, true⟩ := by decide +kernel
theorem test_mul_reduces_operand_a :
    fAfter (.mul 2 0 1) ((gen7.setF 0 ⟨3000000028, 4⟩).setF 1 ⟨1000000010, 2⟩) 2 = some ⟨⟨886920100, 2⟩, true⟩ := by
  decide +kernel
theorem test_sqr_gen7 : fAfter (.sqr 2 0) gen7 2 = some ⟨⟨374181651, 2⟩, true⟩ := by decide +kernel
theorem test_sqr_over_capacity :
    fAfter (.sqr 2 0) (gen7.setF 0 ⟨1745053249, 4⟩) 2 = some ⟨⟨223809694, 2⟩, true⟩ := by decide +kernel
theorem test_imul_fallback_negative : fAfter (.imul 2 0 (-5)) gen7 2 = some ⟨⟨1625818363, 2⟩, true⟩ := by
  decide +kernel
theorem test_imul_pm127 : fAfter (.imul 2 0 (-128)) pm127 2 = some ⟨⟨2 ^ 128 - 642, 2⟩, true⟩ := by decide +kernel
theorem test_half_odd : fAfter (.half 2 0) gen7 2 = some ⟨⟨737418170, 2⟩, true⟩ := by decide +kernel
theorem test_half_even :
    fAfter (.half 2 0) (gen7.setF 0 ⟨4000000028, 4⟩) 2 = some ⟨⟨2000000014, 4⟩, true⟩ := by decide +kernel
theorem test_fred_gen7 : fAfter (.fred 2 0) (gen7.setF 0 ⟨2000000017, 2⟩) 2 = some ⟨⟨3, 1⟩, true⟩ := by decide +kernel
theorem test_pow_cube : fAfter (.pow 1 0 4) gen7 1 = some ⟨⟨870908248, 1⟩, true⟩ := by decide +kernel
theorem test_pow_zero_to_zero :
    fAfter (.pow 1 0 4) ((gen7.setF 0 ⟨0, 1⟩).setX 4 0) 1 = some ⟨⟨294967268, 1⟩, true⟩ := by decide +kernel
theorem test_pow_work : (powCounted Config.gen7 ⟨474836333, 2⟩ 256).2 = ⟨12, 17⟩ := by decide +kernel
theorem test_inv_five : fAfter (.inv 1 0) gen7 1 = some ⟨⟨258993455, 1⟩, true⟩ := by decide +kernel
theorem test_inv_zero : fAfter (.inv 1 0) (gen7.setF 0 ⟨1000000007, 1⟩) 1 = some ⟨⟨0, 1⟩, true⟩ := by decide +kernel
theorem test_sqrt_power : fAfter (.sqrt 1 0) (gen7.setF 0 ⟨374181651, 2⟩) 1 = some ⟨⟨525163674, 1⟩, true⟩ := by
  decide +kernel
theorem test_sqrt_atkin : fAfter (.sqrt 1 0) gen5 1 = some ⟨⟨410065597, 1⟩, true⟩ := by decide +kernel
theorem test_qr_residue : tAfter (.qr 0) (gen7.setF 0 ⟨589934536, 2⟩) = some true := by decide +kernel
theorem test_qr_nonresidue : tAfter (.qr 1) { pm127 with tFlag := true } = some false := by decide +kernel
theorem test_isz_noncanonical_zero : tAfter (.isz 0) (gen7.setF 0 ⟨1000000007, 1⟩) = some true := by decide +kernel
theorem test_isz_five : tAfter (.isz 0) { gen7 with tFlag := true } = some false := by decide +kernel
theorem test_equ_differ_by_p :
    tAfter (.equ 0 1) ((gen7.setF 0 ⟨424508992, 2⟩).setF 1 ⟨1424508999, 2⟩) = some true := by decide +kernel
theorem test_equ_different : tAfter (.equ 0 1) { gen7 with tFlag := true } = some false := by decide +kernel
theorem test_cswap_constant :
    fAfter (.cswap 0 1 false true) pm127 0 = some ⟨⟨3, 1⟩, true⟩ ∧
      fAfter (.cswap 0 1 false true) pm127 1 = some ⟨⟨5, 1⟩, true⟩ := by decide +kernel
theorem test_cswap_flag_clear : fAfter (.cswap 0 1 true false) gen7 0 = some ⟨⟨474836333, 2⟩, true⟩ := by
  decide +kernel
theorem test_cmov_flag_set :
    fAfter (.cmov 2 0 true false) { gen7.setF 2 ⟨0, 1⟩ with tFlag := true } 2 = some ⟨⟨474836333, 2⟩, true⟩ := by
  decide +kernel
theorem test_cmov_constant_clear :
    fAfter (.cmov 2 0 false false) (gen7.setF 2 ⟨0, 1⟩) 2 = some ⟨⟨0, 1⟩, true⟩ := by decide +kernel
theorem test_copy_keeps_excess :
    fAfter (.copy 1 0) (gen7.setF 0 ⟨1359738137, 4⟩) 1 = some ⟨⟨1359738137, 4⟩, true⟩ := by decide +kernel
theorem test_zero : fAfter (.zero 3) gen7 3 = some ⟨⟨0, 1⟩, true⟩ := by decide +kernel
theorem test_one_gen7 : fAfter (.one 1) gen7 1 = some ⟨⟨294967268, 1⟩, true⟩ := by decide +kernel
theorem test_one_pm127 : fAfter (.one 1) pm127 1 = some ⟨⟨1, 1⟩, true⟩ := by decide +kernel
theorem test_nop_counts :
    (nextOf (exec .nop gen7)).map (fun t => (t.cmdcnt, t.done)) = some (1, true) := by decide +kernel

/-! ## Errors (95_test_vectors.md 2.9) -/

theorem test_error_illegal : errorAfter (running 0x60000000) = some (0x001, 0x60000000, 0) := by decide +kernel
theorem test_error_uninit_b : errorAfter (running 0x20814000) = some (0x252, 0x20814000, 0) := by decide +kernel
theorem test_error_uninit_exponent :
    errorAfter ((State.setF (State.resetOf Config.gen7) 0 ⟨474836333, 2⟩).withCommand 0x40410000) =
      some (0x342, 0x40410000, 0) := by decide +kernel
theorem test_error_cmov_old_value : errorAfter (running 0x5C800000) = some (0x222, 0x5C800000, 0) := by decide +kernel
theorem test_error_tores_range :
    errorAfter ((gen7.setX 0 1000000007).withCommand 0x14000000) = some (0x303, 0x14000000, 0) := by decide +kernel
theorem test_error_rdd_range :
    errorAfter (((gen7.setX 1 0xFFFFFFFF).setX 2 0xFFFFFFFF).withCommand 0x1CC48000) =
      some (0x313, 0x1CC48000, 0) := by decide +kernel
theorem test_error_sqrt_unsupported : errorAfter (gen1.withCommand 0x48400000) = some (0x004, 0x48400000, 0) := by
  decide +kernel
theorem test_error_priority :
    errorAfter ((State.resetOf Config.gen1).withCommand 0x48400000) = some (0x202, 0x48400000, 0) := by decide +kernel

/-! ## The host window (95_test_vectors.md 2.10) -/

theorem test_read_cfg_bls381 :
    readAt State.reset 0x004 = some (some 0x017D040F, false) ∧
      readAt State.reset 0x008 = some (some 0x0196003A, false) ∧
      readAt State.reset 0x038 = some (some 0x01F3FFFC, false) := by decide +kernel
theorem test_read_mod_pm127 :
    readAt pm127 0x10C = some (some 0x7FFFFFFF, false) ∧ readAt pm127 0x110 = some (some 0, false) ∧
      readAt pm127 0x114 = some (some 0, true) := by decide +kernel
theorem test_read_status_after_reset : readAt State.reset 0x014 = some (some 2, false) := by decide +kernel
theorem test_read_valid_bits :
    readAt gen7 0x02C = some (some 0x11, false) ∧ readAt gen7 0x030 = some (some 0x3, false) := by decide +kernel
theorem test_read_excess : readAt gen7 0x21FC = some (some 2, false) := by decide +kernel
theorem test_read_refused :
    readAt gen7 0x1304 = some (some 0, true) ∧ readAt gen7 0x002 = some (some 0, true) ∧
      readAt { gen7 with fifo := [0] } 0x1000 = some (some 0, true) := by decide +kernel
theorem test_write_x_word :
    (nextOf (step (hosted (.write 0x1300 .bits32 5)))).map (fun t => (t.x[(3 : Fin 16)], t.xvalidWord)) =
      some (⟨5, true⟩, 0x19) := by decide +kernel
theorem test_write_id_refused :
    (nextOf (step (hosted (.write 0x000 .bits32 0x12345678)))).map (·.accerr) = some true := by decide +kernel

/-- Offsets of 20_memory.md R74 and what stands there. -/
theorem test_address_map :
    accessTarget Config.gen7 0x004 .bits32 = some .cfg0 ∧ accessTarget Config.gen7 0x008 .bits32 = some .cfg1 ∧
      accessTarget Config.bls381 0x2C30 .bits32 = some (.fword 12 12) ∧
      accessTarget Config.bls381 0x2CFC .bits32 = some (.fexcess 12) ∧
      accessTarget Config.bls381 0x1C34 .bits32 = none := by decide +kernel

/-! ## The end of a run (60_exceptions.md R300) -/

theorem test_ended :
    State.ended { State.reset with turns := [.host (.write 0x028 .bits32 0)] } = false ∧ (running 0).ended = false ∧
      State.ended { State.reset with turns := [.host (.read 0x014 .bits32)] } = true ∧ (stopped .engine).ended = true := by
  decide
theorem test_runToEnd_one_command :
    (runToEnd 1 (running 0)).map (fun t => (t.cmdcnt, t.ended)) = some (1, true) ∧
      (runToEnd 0 (running 0)).isNone = true := by decide +kernel

/-- A word placed with `withFetchWord` is what the next step runs (notes/assumptions/6.md). -/
theorem test_withFetchWord :
    (nextOf (step (State.reset.withFetchWord 32 0x04C00000))).map (fun t => t.f[(3 : Fin 16)]) =
      some ⟨⟨0, 1⟩, true⟩ := by decide +kernel

/-! ## Witnesses: for every statement with hypotheses, a state and operands that meet them together -/

theorem engineMoves_running (w : Word) : EngineMoves (running w) [] :=
  ⟨(by decide +kernel : Config.gen7.wellFormed = true), rfl, .inr rfl⟩

theorem hostMoves_hosted (a : Access) : HostMoves (hosted a) a [] :=
  ⟨(by decide +kernel : Config.gen7.wellFormed = true), rfl, rfl⟩

theorem gen7_inv : gen7.Inv := by decide +kernel
theorem pm127_inv : pm127.Inv := by decide +kernel
theorem gen5_inv : gen5.Inv := by decide +kernel
theorem gm448_inv : gm448.Inv := by decide +kernel
theorem mf12_inv : mf12.Inv := by decide +kernel

theorem witness_DecodeOfEncodeIsTheCommand :
    Instr.wellFormed (.imul 15 0 (-128)) = true ∧ Instr.wellFormed (.cswap 0 15 true false) = true := by decide

theorem witness_EncodeOfDecodeIsTheWord :
    decode (0x340000FF : Word) = .ok (.imul 0 0 (-1)) ∧ decode (0x5FFC0001 : Word) = .ok (.cmov 15 15 false true) :=
  ⟨rfl, rfl⟩

theorem witness_OpcodeMapReadsEveryWord :
    (0x58040003 : Word) &&& Opcode.cswap.row.mask = Opcode.cswap.row.pattern ∧
      (0x00000000 : Word) &&& Opcode.nop.row.mask = Opcode.nop.row.pattern := by decide

theorem witness_IllegalWordsEnterError :
    EngineMoves (running 0x60000000) [] ∧ (running 0x60000000).inflight = some 0x60000000 ∧
      decode 0x60000000 = .error .reservedOpcode ∧ decode 0x00000001 = .error .mustBeZeroBit ∧
      decode 0x5C000003 = .error .reservedCondition :=
  ⟨engineMoves_running _, rfl, rfl, rfl, rfl⟩

theorem witness_StepRunsDecodedCommand :
    EngineMoves (running 0x20804000) [] ∧ (running 0x20804000).inflight = some 0x20804000 ∧
      decode 0x20804000 = .ok (.add 2 0 1) :=
  ⟨engineMoves_running _, rfl, rfl⟩

/-- The engine begins a word, has nothing to begin, may not begin one, and has one in flight. -/
theorem witness_EngineBeginsHeadOfFifo :
    EngineMoves { gen7 with fifo := [0, 1] } [] ∧ State.busy { gen7 with fifo := [0, 1] } = false ∧
      EngineMoves gen7 [] ∧ gen7.busy = false ∧ gen7.fifo = [] ∧
      EngineMoves (stopped .engine) [] ∧ (stopped .engine).busy = false ∧ (stopped .engine).error.err = true ∧
      EngineMoves (running 0) [] ∧ (running 0).busy = true :=
  ⟨⟨by decide +kernel, rfl, .inl ⟨rfl, rfl⟩⟩, rfl, ⟨by decide +kernel, rfl, .inl ⟨rfl, rfl⟩⟩, rfl, rfl,
    ⟨by decide +kernel, rfl, .inr rfl⟩, rfl, rfl, engineMoves_running _, rfl⟩

theorem witness_WellFormedBuildStepsOthersAreRefused :
    gen7.cfg.wellFormed = true ∧ (State.resetOf tightBuild).cfg.wellFormed = false := by decide +kernel

theorem witness_ResetLeavesTheValuesOfR65 :
    Config.gen7.wellFormed = true ∧
      HostMoves (hosted (.write 0x010 .bits32 1)) (.write 0x010 .bits32 1) [] ∧ (1 : Word).getLsbD 0 = true ∧
      ({ running 0 with turns := [.resetPin false] } : State).turns = .resetPin false :: [] :=
  ⟨by decide +kernel, hostMoves_hosted _, by decide, rfl⟩

theorem witness_SoftResetRestoresResetValues :
    HostMoves (hosted (.write 0x010 .bits32 0xFFFFFFFF)) (.write 0x010 .bits32 0xFFFFFFFF) [] ∧
      (0xFFFFFFFF : Word).getLsbD 0 = true ∧ (0x00000001 : Word).getLsbD 0 = true :=
  ⟨hostMoves_hosted _, by decide, by decide⟩

/-- The pin falls; while it is low, each kind of turn comes. -/
theorem witness_ResetPinHoldsResetValues :
    Config.gen7.wellFormed = true ∧ ({ gen7 with turns := [.resetPin false] } : State).turns = .resetPin false :: [] ∧
      ∀ turn ∈ [Turn.host (.read 0 .bits32), .engine, .resetPin true],
        ({ State.resetOf Config.gen7 with rstN := false, turns := [turn] } : State) =
          { State.resetOf Config.gen7 with rstN := false, turns := [turn] } := by decide +kernel

theorem witness_ResetMeetsInvariant : Config.gm448.wellFormed = true ∧ Config.mf12.wellFormed = true := by
  constructorm* _ ∧ _ <;> decide +kernel

theorem witness_StepKeepsInvariant :
    gen7.Inv ∧ State.Inv (running 0x20804000) ∧ ∃ t, step (running 0x20804000) = .next t :=
  ⟨gen7_inv, by decide +kernel, by
    obtain ⟨t, ht, -⟩ := executeWord_result 0x20804000 { running 0x20804000 with turns := [] }
    exact ⟨t, by rw [step_of_engineMoves (engineMoves_running _)]; exact ht⟩⟩

/-- A run that ends with every command completed, and one that an error ends, with a word queued behind it. -/
theorem witness_RunsStaySafeAndEnd :
    (State.Inv { gen7 with inflight := some 0 } ∧ gen7.turns = [] ∧ gen7.error.err = false ∧
        (runToEnd 1 { gen7 with inflight := some 0 }).isSome = true) ∧
      State.Inv { gen7 with inflight := some 0x60000000, fifo := [0] } ∧
      (runToEnd 1 { gen7 with inflight := some 0x60000000, fifo := [0] }).isSome = true := by
  constructorm* _ ∧ _ <;> decide +kernel

theorem witness_BuildConstantsNeverChange :
    step (hosted (.write 0x000 .bits32 0)) =
      .next (State.hostAccess { hosted (.write 0x000 .bits32 0) with turns := [] } (.write 0x000 .bits32 0)) :=
  step_of_hostMoves (hostMoves_hosted _)

/-- The error state ends by CLRERR, by SRST and by the pin. -/
theorem witness_OnlyClrerrOrResetEndsError :
    ∀ turn ∈ [Turn.host (.write 0x010 .bits32 2), .host (.write 0x010 .bits32 1), .resetPin false],
      (stopped turn).error.err = true ∧
        (nextOf (step (stopped turn))).map (fun t => t.error.err) = some false := by decide +kernel

theorem witness_HostNeverWritesF :
    (nextOf (step (hosted (.write 0x010 .bits32 1)))).map (fun t => decide (t.f ≠ (hosted (.write 0x010 .bits32 1)).f)) =
      some true := by decide +kernel

theorem witness_CommandCompletesOrEntersError :
    EngineMoves (running 0x60000000) [] ∧ (running 0x60000000).inflight = some 0x60000000 :=
  ⟨engineMoves_running _, rfl⟩

theorem witness_CommandsWriteOnlyTheirDestinations :
    exec (.cswap 0 1 false true) gen7 =
        .next ((gen7.setF 0 (gen7.felem 1)).setF 1 (gen7.felem 0)).complete ∧
      (RegName.f 2 ∉ destinations (.cswap 0 1 false true)) ∧ RegName.x 0 ∉ destinations (.cswap 0 1 false true) ∧
      writesFlag (.cswap 0 1 false true) = false :=
  ⟨rfl, by decide, by decide, rfl⟩

/-- The first unwritten source is field A, field B, and field D. -/
theorem witness_UnwrittenSourceEntersError :
    (sources (.pow 1 5 9) = [] ++ .f 5 :: [.x 9] ∧ gen7.validReg (.f 5) = false) ∧
      (sources (.pow 1 0 9) = [.f 0] ++ .x 9 :: [] ∧ gen7.validReg (.f 0) = true ∧ gen7.validReg (.x 9) = false) ∧
      (sources (.cswap 5 0 false true) = [.f 0] ++ .f 5 :: [] ∧ gen7.validReg (.f 5) = false) := by decide

/-- The least integer TORES refuses, the least RDD refuses, and a build without a square root. -/
theorem witness_OperandValuesThatEnterError :
    ((gen7.setX 0 1000000007).XValid 0 ∧ (gen7.setX 0 1000000007).xval 0 = Config.gen7.p) ∧
      (((gen7.setX 1 931322587).setX 2 2808885445).XValid 1 ∧ ((gen7.setX 1 931322587).setX 2 2808885445).XValid 2 ∧
        931322587 * 2 ^ Config.gen7.gw + 2808885445 = Config.gen7.cap * Config.gen7.p ^ 2 + 1) ∧
      gen1.cfg.mod8 = 1 ∧ gen1.FValid 0 := by decide +kernel

theorem witness_CtrlWriteClearsErrorAndSetsEnables :
    HostMoves (stopped (.host (.write 0x010 .bits32 0xFFFFFFFE))) (.write 0x010 .bits32 0xFFFFFFFE) [] ∧
      (0xFFFFFFFE : Word).getLsbD 0 = false ∧ (0x00000000 : Word).getLsbD 0 = false :=
  ⟨⟨by decide +kernel, rfl, rfl⟩, by decide, by decide⟩

theorem witness_AddressMapIsThatOfR74 : Config.gen7.wellFormed = true ∧ Config.bls381.wellFormed = true := by
  decide +kernel

/-- A mapped offset is mapped; the first word past a slot, and past each window, is not. -/
theorem witness_mapped_bounds :
    MappedOffset Config.gen7 0x038 ∧ MappedOffset Config.gen7 0x2FFC ∧ MappedOffset Config.gen7 0x1F00 ∧
      ¬ MappedOffset Config.gen7 0x03C ∧ ¬ MappedOffset Config.gen7 0x104 ∧ ¬ MappedOffset Config.gen7 0x1F04 ∧
      ¬ MappedOffset Config.gen7 0x3000 := by
  have hx : Config.gen7.xw = 1 := by decide
  refine ⟨.inl ⟨14, by omega, by omega⟩, .inr (.inr (.inr (.inr ⟨15, by omega, by omega⟩))),
    .inr (.inr (.inl ⟨15, 0, by omega, by omega, by omega⟩)), ?_, ?_, ?_, ?_⟩ <;>
    · unfold MappedOffset
      rw [hx]
      rintro (⟨k, hk, h⟩ | ⟨j, hj, h⟩ | ⟨i, j, hi, hj, h⟩ | ⟨i, j, hi, hj, h⟩ | ⟨i, hi, h⟩) <;> omega

/-- Every row of the map has an offset: a register, and the last word of the modulus and of each window's last slot. -/
theorem witness_AddressMap_rows :
    (0x038 : BitVec 14).toNat = 0x038 ∧ 12 < Config.bls381.xw ∧
      (0x130 : BitVec 14).toNat = 0x100 + 4 * 12 ∧
      (0x1F30 : BitVec 14).toNat = 0x1000 + 0x100 * (15 : Fin 16).val + 4 * 12 ∧
      (0x2F30 : BitVec 14).toNat = 0x2000 + 0x100 * (15 : Fin 16).val + 4 * 12 ∧
      (0x2FFC : BitVec 14).toNat = 0x2000 + 0x100 * (15 : Fin 16).val + 0xFC := by decide

/-- A narrow read of CMD and a narrow write to STATUS, which the model refuses (notes/assumptions/13.md). -/
theorem witness_RefusedAccess_narrow :
    HostMoves (hosted (.read 0x028 .bits8)) (.read 0x028 .bits8) [] ∧
      HostMoves (hosted (.write 0x014 .bits16 0)) (.write 0x014 .bits16 0) [] ∧ AccessSize.bits16 ≠ .bits32 :=
  ⟨hostMoves_hosted _, hostMoves_hosted _, by decide⟩

/-- Refused for its size, its alignment, an unmapped offset, a read-only target, and a data window that is not open. -/
theorem witness_RefusedAccessOnlySetsAccerr :
    HostMoves (hosted (.read 0x3FFC .bits8)) (.read 0x3FFC .bits8) [] ∧ AccessSize.bits8 ≠ .bits32 ∧
      HostMoves (hosted (.write 0x3FFF .bits32 0)) (.write 0x3FFF .bits32 0) [] ∧ (0x3FFF : BitVec 14).toNat % 4 ≠ 0 ∧
      ¬ MappedOffset (hosted (.read 0x3000 .bits32)).cfg (0x3000 : BitVec 14).toNat ∧
      ¬ WritableOffset (hosted (.write 0x000 .bits32 0)).cfg (0x000 : BitVec 14).toNat ∧
      HostMoves { gen7 with fifo := [0], turns := [.host (.read 0x2FFC .bits32)] } (.read 0x2FFC .bits32) [] ∧
      State.idle { gen7 with fifo := [0], turns := [.host (.read 0x2FFC .bits32)] } = false ∧
      0x1000 ≤ (0x2FFC : BitVec 14).toNat ∧ (0x2FFC : BitVec 14).toNat < 0x3000 := by
  refine ⟨hostMoves_hosted _, by decide, hostMoves_hosted _, by decide, ?_, ?_, ⟨by decide +kernel, rfl, rfl⟩,
    by decide, by decide, by decide⟩
  · exact witness_mapped_bounds.2.2.2.2.2.2
  · rintro (h | h | h | ⟨i, j, hi, hj, h⟩) <;> simp at h
    omega

/-- A read that is answered while IDLE, one below the data windows while not IDLE, one of nothing, and one of a data
window that is not open. -/
theorem witness_ReadsHaveNoSideEffect :
    (HostMoves (hosted (.read 0x20FC .bits32)) (.read 0x20FC .bits32) [] ∧
        accessTarget Config.gen7 0x20FC .bits32 = some (.fexcess 0) ∧ (hosted (.read 0x20FC .bits32)).idle = true) ∧
      (HostMoves { hosted (.read 0x014 .bits32) with fifo := [0] } (.read 0x014 .bits32) [] ∧
        accessTarget Config.gen7 0x014 .bits32 = some .status ∧ (0x014 : BitVec 14).toNat < 0x1000) ∧
      (HostMoves (hosted (.read 0x3FFF .bits64)) (.read 0x3FFF .bits64) [] ∧
        accessTarget Config.gen7 0x3FFF .bits64 = none) ∧
      HostMoves { hosted (.read 0x1000 .bits32) with fifo := [0] } (.read 0x1000 .bits32) [] ∧
      State.idle { hosted (.read 0x1000 .bits32) with fifo := [0] } = false ∧ 0x1000 ≤ (0x1000 : BitVec 14).toNat :=
  ⟨⟨hostMoves_hosted _, by decide +kernel, rfl⟩, ⟨⟨by decide +kernel, rfl, rfl⟩, by decide +kernel, by decide⟩,
    ⟨hostMoves_hosted _, by decide +kernel⟩, ⟨by decide +kernel, rfl, rfl⟩, rfl, by decide⟩

/-- A write to CMD while stopped, with a full FIFO, and with room for one word. -/
theorem witness_CmdWriteQueuesOrDrops :
    (HostMoves (stopped (.host (.write 0x028 .bits32 0))) (.write 0x028 .bits32 0) [] ∧
        (stopped (.host (.write 0x028 .bits32 0))).error.err = true) ∧
      (HostMoves { hosted (.write 0x028 .bits32 0) with fifo := [0, 0, 0, 0] } (.write 0x028 .bits32 0) [] ∧
        gen7.error.err = false ∧ [0, 0, 0, 0].length = gen7.cfg.fifoDepth) ∧
      (HostMoves { hosted (.write 0x028 .bits32 0) with fifo := [0, 0, 0] } (.write 0x028 .bits32 0) [] ∧
        [0, 0, 0].length ≠ gen7.cfg.fifoDepth) :=
  ⟨⟨⟨by decide +kernel, rfl, rfl⟩, rfl⟩, ⟨⟨by decide +kernel, rfl, rfl⟩, rfl, rfl⟩,
    ⟨by decide +kernel, rfl, rfl⟩, by decide⟩

theorem witness_StatusWriteClearsWrittenBits :
    HostMoves (hosted (.write 0x014 .bits32 0xF0)) (.write 0x014 .bits32 0xF0) [] := hostMoves_hosted _

theorem witness_RegistersShowTheirFields :
    (stopped .engine).Inv ∧ gen7.Inv ∧ gen7.error.err = false ∧ State.Inv { gen7 with fifo := [0, 0, 0, 0], inflight := some 0 } := by
  constructorm* _ ∧ _ <;> decide +kernel

theorem witness_IrqFollowsStatusAndCtrl :
    State.Inv { gen7 with done := true, ieDone := true } ∧ State.Inv { stopped .engine with ieErr := true } := by
  constructorm* _ ∧ _ <;> decide +kernel

theorem witness_ConstantRegistersShowTheBuild :
    gm448.cfg.wellFormed = true ∧ gm448.cfg.shape = .gm ∧ State.reset.cfg.wellFormed = true ∧
      State.reset.cfg.shape ≠ .gm := by decide +kernel

/-- The last word of the last register of the default build. -/
theorem witness_XWindowWriteReplacesOneWord :
    HostMoves { State.reset with turns := [.host (.write 0x1F30 .bits32 0xFFFFFFFF)] }
        (.write 0x1F30 .bits32 0xFFFFFFFF) [] ∧
      State.reset.idle = true ∧ 12 < State.reset.cfg.xw ∧ ¬ 13 < State.reset.cfg.xw ∧
      (0x1F30 : BitVec 14).toNat = 0x1000 + 0x100 * (15 : Fin 16).val + 4 * 12 :=
  ⟨⟨by decide +kernel, rfl, rfl⟩, rfl, by decide, by decide, by decide⟩

/-- The last word of each window, and the excess of the last register. -/
theorem witness_WindowReadsReturnTheWord :
    HostMoves { State.reset with turns := [.host (.read 0x130 .bits32)] } (.read 0x130 .bits32) [] ∧
      (0x130 : BitVec 14).toNat = 0x100 + 4 * 12 ∧ 12 < State.reset.cfg.xw ∧ State.reset.idle = true ∧
      HostMoves { State.reset with turns := [.host (.read 0x1F30 .bits32)] } (.read 0x1F30 .bits32) [] ∧
      (0x1F30 : BitVec 14).toNat = 0x1000 + 0x100 * (15 : Fin 16).val + 4 * 12 ∧
      HostMoves { State.reset with turns := [.host (.read 0x2F30 .bits32)] } (.read 0x2F30 .bits32) [] ∧
      (0x2F30 : BitVec 14).toNat = 0x2000 + 0x100 * (15 : Fin 16).val + 4 * 12 ∧
      HostMoves (hosted (.read 0x20FC .bits32)) (.read 0x20FC .bits32) [] ∧ 0 < gen7.cfg.xw ∧
      (0x20FC : BitVec 14).toNat = 0x2000 + 0x100 * (0 : Fin 16).val + 0xFC ∧
      gen7.f[(0 : Fin 16)].elem.e = 2 :=
  ⟨⟨by decide +kernel, rfl, rfl⟩, by decide, by decide, rfl, ⟨by decide +kernel, rfl, rfl⟩, by decide,
    ⟨by decide +kernel, rfl, rfl⟩, by decide, hostMoves_hosted _, by decide, by decide, rfl⟩

/-- The largest operand of the contract, as a product of two register values, in a build of each shape. -/
theorem witness_ReductionMeetsItsContract :
    ∀ c ∈ [Config.pm127, Config.gm448, Config.mf12, Config.gen7],
      c.wellFormed = true ∧ c.cap * c.p ^ 2 ≤ c.cap * c.p ^ 2 ∧ c.cap * c.p ^ 2 = (c.cap * c.p) * c.p := by
  decide +kernel

theorem witness_DigitLoopsAreMontgomery :
    (Config.gen7.wellFormed = true ∧ Config.gen7.shape = .gen) ∧ Config.mf12.wellFormed = true ∧
      Config.mf12.shape = .mf ∧ 2 ≤ Config.mf12.n := by decide +kernel

/-- The bounds of the properties: `CAP*p^2`, `R - 1`, and the multiple `p` of `p`. -/
theorem witness_MontgomeryClosedForm :
    Config.gen7.wellFormed = true ∧ 4000000056000000196 ≤ Config.gen7.cap * Config.gen7.p ^ 2 ∧
      2 ^ 32 - 1 < Config.gen7.r ∧ Config.gen7.p < Config.gen7.r := by decide +kernel

theorem witness_CommandsWithoutSourcesComplete : gen7.Inv ∧ gm448.Inv := ⟨gen7_inv, gm448_inv⟩

theorem witness_one_source :
    gen7.FValid 0 ∧ gen7.Inv ∧ pm127.FValid 0 ∧ pm127.Inv ∧ mf12.FValid 0 ∧ mf12.Inv ∧ gm448.FValid 0 ∧ gm448.Inv :=
  ⟨rfl, gen7_inv, rfl, pm127_inv, rfl, mf12_inv, rfl, gm448_inv⟩

theorem witness_CopyIsExact : gen7.FValid 0 := rfl

/-- The largest integer TORES takes, in a build of each representation. -/
theorem witness_ToresLoadsTheInteger :
    (gen7.setX 0 1000000006).XValid 0 ∧ (gen7.setX 0 1000000006).xval 0 < Config.gen7.p ∧
      State.Inv (gen7.setX 0 1000000006) ∧ (pm127.setX 0 (2 ^ 127 - 2)).XValid 0 ∧
      (pm127.setX 0 (2 ^ 127 - 2)).xval 0 < Config.pm127.p ∧ State.Inv (pm127.setX 0 (2 ^ 127 - 2)) := by
  constructorm* _ ∧ _ <;> decide +kernel

/-- A non-canonical zero in a Montgomery build, and a value above `p` in a shape-based one. -/
theorem witness_FromresReadsTheValue :
    (gen7.setF 0 ⟨1000000007, 1⟩).FValid 0 ∧ State.Inv (gen7.setF 0 ⟨1000000007, 1⟩) ∧
      (pm127.setF 0 ⟨2 ^ 127 + 4, 2⟩).FValid 0 ∧ State.Inv (pm127.setF 0 ⟨2 ^ 127 + 4, 2⟩) := by
  constructorm* _ ∧ _ <;> decide +kernel

theorem witness_ToresThenFromresIsTheInteger :
    State.Inv (gen7.setX 0 44449) ∧ (gen7.setX 0 44449).XValid 0 ∧ (gen7.setX 0 44449).xval 0 < Config.gen7.p := by
  constructorm* _ ∧ _ <;> decide +kernel

theorem witness_RddReducesTheDoubleWord :
    State.Inv ((gen7.setX 1 931322587).setX 2 2808885444) ∧ ((gen7.setX 1 931322587).setX 2 2808885444).XValid 1 ∧
      ((gen7.setX 1 931322587).setX 2 2808885444).XValid 2 ∧
      931322587 * 2 ^ Config.gen7.gw + 2808885444 = Config.gen7.cap * Config.gen7.p ^ 2 := by
  constructorm* _ ∧ _ <;> decide +kernel

/-- The excesses add up to the capacity, and to one more. -/
theorem witness_AddWritesTheSum :
    gen7.FValid 0 ∧ gen7.FValid 1 ∧ gen7.Inv ∧ (gen7.felem 0).e + (gen7.felem 1).e = gen7.cfg.cap ∧
      State.Inv (gen7.setF 1 ⟨2000000015, 3⟩) ∧
      ((gen7.setF 1 ⟨2000000015, 3⟩).felem 0).e + ((gen7.setF 1 ⟨2000000015, 3⟩).felem 1).e = gen7.cfg.cap + 1 := by
  constructorm* _ ∧ _ <;> decide +kernel

/-- A capacity of 3, so that the negative of an element of excess 3 is over it. -/
def oddCapacity : State :=
  { gen7.setF 0 ⟨3000000021, 3⟩ with cfg := { Config.gen7 with cap := 3 } }

theorem witness_NegWritesTheNegative :
    gen7.FValid 0 ∧ gen7.Inv ∧ nextpow2 (gen7.felem 0).e ≤ gen7.cfg.cap ∧ oddCapacity.FValid 0 ∧ oddCapacity.Inv ∧
      oddCapacity.cfg.cap < nextpow2 (oddCapacity.felem 0).e := by
  constructorm* _ ∧ _ <;> decide +kernel

theorem witness_SubWritesTheDifference :
    gen7.FValid 0 ∧ gen7.FValid 1 ∧ gen7.Inv ∧ nextpow2 (gen7.felem 1).e ≤ gen7.cfg.cap ∧
      (gen7.felem 0).e + nextpow2 (gen7.felem 1).e = gen7.cfg.cap := by
  constructorm* _ ∧ _ <;> decide +kernel

/-- The excesses multiply to the capacity, and past it. -/
theorem witness_MulWritesTheProduct :
    gen7.FValid 0 ∧ gen7.FValid 1 ∧ gen7.Inv ∧ (gen7.felem 0).e * (gen7.felem 1).e = gen7.cfg.cap ∧
      State.Inv (gen7.setF 0 ⟨3000000028, 4⟩) ∧
      gen7.cfg.cap < ((gen7.setF 0 ⟨3000000028, 4⟩).felem 0).e * ((gen7.setF 0 ⟨3000000028, 4⟩).felem 1).e := by
  constructorm* _ ∧ _ <;> decide +kernel

theorem witness_SqrWritesTheSquare :
    gen7.FValid 0 ∧ gen7.Inv ∧ (gen7.felem 0).e * (gen7.felem 0).e = gen7.cfg.cap ∧
      State.Inv (gen7.setF 0 ⟨1745053249, 4⟩) := by
  constructorm* _ ∧ _ <;> decide +kernel

theorem witness_SqrAgreesWithMul :
    Config.gen7.wellFormed = true ∧ FElem.bounded Config.gen7 ⟨1745053249, 4⟩ = true ∧
      FElem.bounded Config.gen7 ⟨474836333, 2⟩ = true ∧ 2 * 2 ≤ Config.gen7.cap := by decide +kernel

theorem witness_ImulWritesTheMultiple :
    gen7.FValid 0 ∧ gen7.Inv ∧ gen7.cfg.shape = .gen ∧ scalarFits (-128) = true ∧ scalarFits 127 = true ∧ pm127.FValid 0 ∧ pm127.Inv := by
  constructorm* _ ∧ _ <;> decide +kernel

theorem witness_HalfAndFredWriteTheirValues :
    gen7.FValid 0 ∧ gen7.Inv ∧ (gen7.felem 0).g % 2 ≠ 0 ∧ pm127.FValid 1 ∧
      ((gen7.setF 0 ⟨4000000028, 4⟩).felem 0).g % 2 = 0 ∧ State.Inv (gen7.setF 0 ⟨4000000028, 4⟩) := by
  constructorm* _ ∧ _ <;> decide +kernel

theorem witness_IszAndEquTestFieldValues : gen7.FValid 0 ∧ gen7.FValid 1 ∧ gen7.Inv := ⟨rfl, rfl, gen7_inv⟩

theorem witness_PowWritesTheCanonicalPower :
    gen7.FValid 0 ∧ gen7.XValid 4 ∧ gen7.Inv ∧ State.Inv (gen7.setX 4 (2 ^ 32 - 1)) := by
  constructorm* _ ∧ _ <;> decide +kernel

/-- A non-zero element and a non-canonical zero. -/
theorem witness_InvWritesTheInverse :
    gen7.FValid 0 ∧ gen7.Inv ∧ val gen7.cfg (gen7.felem 0).g ≠ 0 ∧ State.Inv (gen7.setF 0 ⟨1000000007, 1⟩) ∧
      val Config.gen7 1000000007 = 0 := by
  constructorm* _ ∧ _ <;> decide +kernel

/-- Atkin's class with a square and with a zero, the other supported classes, and a zero of one of them, which is no
non-zero square. -/
theorem witness_SqrtWritesTheFormula :
    (gen5.FValid 0 ∧ gen5.cfg.mod8 = 5 ∧ gen5.Inv ∧ NonzeroSquare gen5.cfg (val gen5.cfg (gen5.felem 0).g)) ∧
      (State.Inv (gen5.setF 0 ⟨1000000021, 1⟩) ∧ val Config.gen5 1000000021 = 0) ∧
      (gen7.FValid 0 ∧ gen7.cfg.mod8 ≠ 1 ∧ gen7.cfg.mod8 ≠ 5 ∧ gen7.Inv) ∧
      State.Inv (gen7.setF 0 ⟨0, 1⟩) ∧ val Config.gen7 0 = 0 ∧ ¬ NonzeroSquare Config.gen7 (val Config.gen7 0) := by
  refine ⟨⟨rfl, rfl, gen5_inv, by decide +kernel, 2, by decide +kernel⟩, ⟨by decide +kernel, by decide +kernel⟩,
    ⟨rfl, by decide, by decide, gen7_inv⟩, by decide +kernel, by decide +kernel, fun h => h.1 ?_⟩
  decide +kernel

theorem witness_QrTestsForNonzeroSquares : gen7.FValid 0 ∧ gen7.Inv := ⟨rfl, gen7_inv⟩

/-- QR sets T in a build of each supported kind. -/
theorem witness_SqrtOfResidueSquaresBack :
    (gen5.Inv ∧ gen5.FValid 0 ∧ gen5.cfg.mod8 ≠ 1 ∧ tAfter (.qr 0) gen5 = some true) ∧
      State.Inv (gen7.setF 0 ⟨374181651, 2⟩) ∧ (gen7.setF 0 ⟨374181651, 2⟩).FValid 0 ∧ gen7.cfg.mod8 ≠ 1 ∧
      tAfter (.qr 0) (gen7.setF 0 ⟨374181651, 2⟩) = some true := by
  constructorm* _ ∧ _ <;> decide +kernel

theorem witness_ResidueFlagIgnoresSquares :
    Config.gen7.wellFormed = true ∧ FElem.bounded Config.gen7 ⟨589934536, 2⟩ = true ∧
      FElem.bounded Config.gen7 ⟨474836333, 2⟩ = true ∧ val Config.gen7 474836333 ≠ 0 := by decide +kernel

/-- The condition holds by the constant and by T, and fails by each. -/
theorem witness_CswapExchangesOnCondition :
    gen7.FValid 0 ∧ gen7.FValid 1 ∧ (if false then gen7.tFlag else true) = true ∧
      (if true then gen7.tFlag else false) = false ∧
      (if true then ({ gen7 with tFlag := true } : State).tFlag else false) = true ∧
      (if false then gen7.tFlag else false) = false := by decide

theorem witness_CmovMovesOnCondition : gen7.FValid 0 ∧ gen7.FValid 1 := ⟨rfl, rfl⟩

end Sys2Proof.Tests
end

section
/-! PROOFS of the statements on the scope of the model (00_scope.md R8, R9): which builds run, and that a build that
runs always has a next state. -/

namespace Sys2Proof.Machine

/-! ## Every turn has a next state -/

theorem engineTurn_next (s : State) : ∃ t, engineTurn s = .next t := by
  unfold engineTurn
  split
  · split
    · rename_i w _
      obtain ⟨t, ht, -⟩ := executeWord_result w s
      exact ⟨t, ht⟩
    · exact ⟨_, rfl⟩
  · exact ⟨_, rfl⟩

theorem takeTurn_next (s : State) : ∃ t, takeTurn s = .next t := by
  unfold takeTurn
  split
  · exact engineTurn_next s
  · exact engineTurn_next _
  · exact ⟨_, rfl⟩
  · exact ⟨_, rfl⟩

theorem step_of_wellFormed {s : State} (h : s.cfg.wellFormed = true) : step s = takeTurn s := by
  simp [step, h]

theorem step_of_illFormed {s : State} (h : s.cfg.wellFormed = false) : step s = .refused .illFormedBuild := by
  simp [step, h]

/-! ## The conditions of a well-formed build, each as a proposition -/

/-- The bit length of a positive number is the place of its top bit (00_scope.md R11). -/
theorem eq_bitlength_iff {x : Nat} (hx : 0 < x) (n : Nat) : n = bitlength x ↔ 2 ^ (n - 1) ≤ x ∧ x < 2 ^ n := by
  have hpos : 0 < bitlength x := by
    by_contra h
    have := (bitlength_le_iff x 0).1 (by omega)
    omega
  rw [← bitlength_le_iff, ← Nat.not_lt, ← bitlength_le_iff]
  omega

variable (c : Cfg)

theorem rangesHold_iff :
    c.rangesHold = true ↔ 1 ≤ c.w ∧ c.w ≤ 64 ∧ 1 ≤ c.n ∧ 1 ≤ c.fifoDepth ∧ c.fifoDepth ≤ 255 := by
  simp only [Cfg.rangesHold, Bool.and_eq_true, decide_eq_true_eq, and_assoc]

theorem wf1_iff :
    c.wf1 = true ↔
      c.p.Prime ∧ c.p % 2 = 1 ∧ 128 < c.p ∧ 2 ^ (c.nbits - 1) ≤ c.p ∧ c.p < 2 ^ c.nbits ∧ c.mod8 = c.p % 8 := by
  simp only [Cfg.wf1, Bool.and_eq_true, decide_eq_true_eq, isPrime_iff]
  constructor
  · rintro ⟨⟨⟨⟨hodd, hlow⟩, hbits⟩, hmod⟩, hprime⟩
    obtain ⟨hge, hlt⟩ := (eq_bitlength_iff (by omega) _).1 hbits
    exact ⟨hprime, hodd, hlow, hge, hlt, hmod⟩
  · rintro ⟨hprime, hodd, hlow, hge, hlt, hmod⟩
    exact ⟨⟨⟨⟨hodd, hlow⟩, (eq_bitlength_iff (by omega) _).2 ⟨hge, hlt⟩⟩, hmod⟩, hprime⟩

theorem wf2_iff : c.wf2 = true ↔ 2 ≤ c.cap ∧ c.cap < 2 ^ 32 ∧ c.cap * c.p ≤ 2 ^ (c.n * c.w) := by
  simp only [Cfg.wf2, Bool.and_eq_true, decide_eq_true_eq, and_assoc]
  rw [Cfg.r, Cfg.gw]

theorem wf3_iff :
    c.wf3 = true ↔ c.p + c.c = 2 ^ c.nbits ∧ 1 ≤ c.c ∧ c.c * c.c * c.cap + 2 * c.c ≤ 2 ^ c.nbits := by
  simp only [Cfg.wf3, Bool.and_eq_true, decide_eq_true_eq, and_assoc]

theorem wf4_iff :
    c.wf4 = true ↔ c.p + 1 = c.mconst * 2 ^ (c.w * (c.n - 1)) ∧ 1 ≤ c.mconst ∧ c.mconst < 2 ^ c.w := by
  simp only [Cfg.wf4, Bool.and_eq_true, decide_eq_true_eq, and_assoc]

theorem genConstHolds_iff : c.genConstHolds = true ↔ c.mconst < 2 ^ c.w ∧ 2 ^ c.w ∣ c.p * c.mconst + 1 := by
  simp only [Cfg.genConstHolds, Bool.and_eq_true, decide_eq_true_eq, Nat.dvd_iff_mod_eq_zero]

/-- What a shape asks of its own constants, and of no other shape's. -/
theorem shapeHolds_iff :
    c.shapeHolds = true ↔
      (c.shape = .pm →
        c.p + c.c = 2 ^ c.nbits ∧ 1 ≤ c.c ∧ c.c * c.c * c.cap + 2 * c.c ≤ 2 ^ c.nbits ∧ c.mconst = c.c) ∧
      (c.shape = .mf → c.p + 1 = c.mconst * 2 ^ (c.w * (c.n - 1)) ∧ 1 ≤ c.mconst ∧ c.mconst < 2 ^ c.w) ∧
      (c.shape = .gen → c.mconst < 2 ^ c.w ∧ 2 ^ c.w ∣ c.p * c.mconst + 1) := by
  unfold Cfg.shapeHolds
  cases c.shape with
  | pm => simp [wf3_iff, and_assoc]
  | gm => simp
  | mf => simp [wf4_iff]
  | gen => simp [genConstHolds_iff]

theorem wf6_iff : c.wf6 = true ↔ ∀ k : Fin 16, c.crom[k] < c.p := by
  simp only [Cfg.wf6, List.all_eq_true, decide_eq_true_eq, Vector.mem_toList_iff]
  constructor
  · exact fun h k => h _ (Vector.getElem_mem k.isLt)
  · intro h v hv
    obtain ⟨i, hi, rfl⟩ := Vector.getElem_of_mem hv
    exact h ⟨i, hi⟩

theorem wf7_iff : c.wf7 = true ↔ c.n * c.w ≤ 2016 := by
  rw [Cfg.wf7, decide_eq_true_iff, Cfg.gw]

/-- The conditions of a build the model runs, those of its shape among them. -/
theorem wellFormed_iff :
    c.wellFormed = true ↔
      c.rangesHold = true ∧ c.wf1 = true ∧ c.wf2 = true ∧ c.shapeHolds = true ∧ c.wf6 = true ∧ c.wf7 = true := by
  simp only [Cfg.wellFormed, Bool.and_eq_true, and_assoc]

end Sys2Proof.Machine

namespace Sys2Proof.Proofs

open Sys2Proof Sys2Proof.Machine

/-- Settles O8: a well-formed build takes its turn, which always answers; `step` refuses any other build. -/
theorem wellFormedBuildStepsOthersAreRefused : Obligations.WellFormedBuildStepsOthersAreRefused := by
  intro s
  refine ⟨fun h => ?_, step_of_illFormed⟩
  rw [step_of_wellFormed h]
  exact takeTurn_next s

/-- Settles O9: each condition of the model's check is the proposition the rule states. -/
theorem wellFormedBuildsMeetR9AndTheRangesOfR8 : Obligations.WellFormedBuildsMeetR9AndTheRangesOfR8 := by
  intro c
  rw [wellFormed_iff, rangesHold_iff, wf1_iff, wf2_iff, shapeHolds_iff, wf6_iff, wf7_iff]
  simp only [and_assoc]

end Sys2Proof.Proofs
end

section
/-! SUPPORT for the invariant. The reduction engine answers below `2p` within its contract (41_reduction.md R152), and
every operation of the engine keeps the excess invariant of its operands (10_state.md R33). -/

namespace Sys2Proof.Machine

variable {c : Cfg}

/-! ## The bound of a reduction, variant by variant -/

/-- The largest operand of the contract is below `p * R`, since `CAP * p` is below `R`. -/
theorem lt_p_mul_r_of_le_reduceBound (h : c.wellFormed = true) {d : Nat} (hd : d ≤ reduceBound c) : d < c.p * c.r := by
  have hp := p_gt_128 h
  calc d ≤ c.cap * c.p * c.p := by rwa [reduceBound, ← Nat.mul_assoc] at hd
    _ < c.r * c.p := Nat.mul_lt_mul_of_pos_right (cap_mul_p_lt_r h) (by omega)
    _ = c.p * c.r := Nat.mul_comm _ _

/-- The two folds of the pseudo-Mersenne reduction, by WF3 (41_reduction.md R151, 00_scope.md R9). -/
theorem pmReduce_lt (h : c.wellFormed = true) (hs : c.shape = .pm) {d : Nat} (hd : d ≤ reduceBound c) :
    pmReduce c d < 2 * c.p := by
  obtain ⟨hpc, -, hfold, -⟩ := ((shapeHolds_iff c).1 (shapeHolds_of_wellFormed h)).1 hs
  have hm : 0 < 2 ^ c.nbits := Nat.two_pow_pos _
  rw [reduceBound] at hd
  simp only [pmReduce, pmFold]
  generalize 2 ^ c.nbits = m at hpc hfold hm ⊢
  have hhigh : d / m ≤ c.cap * m := by
    refine Nat.div_le_of_le_mul (hd.trans ?_)
    calc c.cap * (c.p * c.p) ≤ c.cap * (m * m) := by gcongr <;> omega
      _ = m * (c.cap * m) := by ring
  set f := d % m + c.c * (d / m) with hf
  have hcarry : f / m ≤ c.c * c.cap := by
    refine Nat.lt_succ_iff.1 (Nat.div_lt_of_lt_mul ?_)
    calc f < m + c.c * (c.cap * m) := Nat.add_lt_add_of_lt_of_le (Nat.mod_lt d hm) (Nat.mul_le_mul_left _ hhigh)
      _ = m * (c.c * c.cap).succ := by rw [Nat.succ_eq_add_one]; ring
  have hlow : f % m < m := Nat.mod_lt f hm
  have hback : c.c * (f / m) ≤ c.c * c.c * c.cap := by
    rw [Nat.mul_assoc]
    exact Nat.mul_le_mul_left _ hcarry
  omega

theorem gmReduce_lt (h : c.wellFormed = true) (d : Nat) : gmReduce c d < 2 * c.p := by
  have hp := p_gt_128 h
  have hmod : d % c.p < c.p := Nat.mod_lt _ (by omega)
  unfold gmReduce
  split <;> omega

theorem mont_lt (h : c.wellFormed = true) {d : Nat} (hd : d ≤ reduceBound c) : mont c d < 2 * c.p := by
  have hlt := lt_p_mul_r_of_le_reduceBound h hd
  have hm : (c.r - d * pInvR c % c.r) % c.r ≤ c.r := (Nat.mod_lt _ (r_pos c)).le
  refine Nat.div_lt_of_lt_mul ?_
  calc d + (c.r - d * pInvR c % c.r) % c.r * c.p < c.p * c.r + c.r * c.p :=
        Nat.add_lt_add_of_lt_of_le hlt (Nat.mul_le_mul_right _ hm)
    _ = c.r * (2 * c.p) := by ring

/-- What the digit loop adds stays below `p` times the weight of the digits it has cleared (41_reduction.md R155). -/
theorem genDigits_add_le (c : Cfg) (k i acc : Nat) :
    genDigits c k i acc + c.p * 2 ^ (c.w * i) ≤ acc + c.p * 2 ^ (c.w * (i + k)) := by
  induction k generalizing i acc with
  | zero => simp [genDigits]
  | succ k ih =>
    simp only [genDigits]
    set m := digit c i acc * c.mconst % 2 ^ c.w with hm
    have hlt : m + 1 ≤ 2 ^ c.w := Nat.mod_lt _ (Nat.two_pow_pos _)
    have hstep : m * c.p * 2 ^ (c.w * i) + c.p * 2 ^ (c.w * i) ≤ c.p * 2 ^ (c.w * (i + 1)) := by
      calc m * c.p * 2 ^ (c.w * i) + c.p * 2 ^ (c.w * i) = (m + 1) * (c.p * 2 ^ (c.w * i)) := by ring
        _ ≤ 2 ^ c.w * (c.p * 2 ^ (c.w * i)) := Nat.mul_le_mul_right _ hlt
        _ = c.p * 2 ^ (c.w * (i + 1)) := by rw [Nat.mul_succ, pow_add]; ring
    have hrest := ih (i + 1) (acc + m * c.p * 2 ^ (c.w * i))
    rw [show i + (k + 1) = i + 1 + k by omega]
    omega

theorem genReduce_lt (h : c.wellFormed = true) {d : Nat} (hd : d ≤ reduceBound c) : genReduce c d < 2 * c.p := by
  have hlt := lt_p_mul_r_of_le_reduceBound h hd
  have hloop := genDigits_add_le c c.n 0 d
  rw [Nat.zero_add, Nat.mul_comm c.w c.n, ← Cfg.gw, ← Cfg.r] at hloop
  refine Nat.div_lt_of_lt_mul ?_
  rw [Nat.mul_left_comm, Nat.two_mul, Nat.mul_comm c.r]
  omega

/-- The bound of the reduction contract, in every variant (41_reduction.md R152). -/
theorem reduce_lt_two_mul_p (h : c.wellFormed = true) {d : Nat} (hd : d ≤ reduceBound c) : reduce c d < 2 * c.p := by
  unfold reduce
  split
  · exact pmReduce_lt h ‹_› hd
  · exact gmReduce_lt h d
  · exact mont_lt h hd
  · exact genReduce_lt h hd

theorem two_mul_p_lt_r (h : c.wellFormed = true) : 2 * c.p < c.r :=
  lt_of_le_of_lt (Nat.mul_le_mul_right _ (two_le_cap h)) (cap_mul_p_lt_r h)

theorem cap_mul_p_le_reduceBound (h : c.wellFormed = true) : c.cap * c.p ≤ reduceBound c := by
  have hp := p_gt_128 h
  exact Nat.mul_le_mul_left _ (Nat.le_mul_of_pos_left _ (by omega))

theorem p_mul_p_le_reduceBound (h : c.wellFormed = true) : c.p * c.p ≤ reduceBound c := by
  have hcap := two_le_cap h
  exact Nat.le_mul_of_pos_left _ (by omega)

/-! ## Elements within the excess invariant -/

variable {a b : FElem}

theorem bounded_iff : a.bounded c = true ↔ 1 ≤ a.e ∧ a.e ≤ c.cap ∧ a.g ≤ a.e * c.p := by
  simp only [FElem.bounded, Bool.and_eq_true, decide_eq_true_eq, and_assoc]

theorem g_le_cap_mul_p_of_bounded (ha : a.bounded c = true) : a.g ≤ c.cap * c.p := by
  obtain ⟨-, hcap, hg⟩ := bounded_iff.1 ha
  exact hg.trans (Nat.mul_le_mul_right _ hcap)

/-- A bounded value fits its register (10_state.md R40). -/
theorem g_lt_r_of_bounded (h : c.wellFormed = true) (ha : a.bounded c = true) : a.g < c.r :=
  (g_le_cap_mul_p_of_bounded ha).trans_lt (cap_mul_p_lt_r h)

/-- A value of at most `p` with excess 1. -/
theorem bounded_of_le_p (h : c.wellFormed = true) {g : Nat} (hg : g ≤ c.p) : FElem.bounded c ⟨g, 1⟩ = true :=
  bounded_iff.2 ⟨le_rfl, Nat.le_of_succ_le (two_le_cap h), by simpa using hg⟩

/-- The result of a reduction, with the excess 2 the engine records for it. -/
theorem bounded_of_reduce (h : c.wellFormed = true) {d : Nat} (hd : d ≤ reduceBound c) :
    FElem.bounded c ⟨reduce c d, 2⟩ = true :=
  bounded_iff.2 ⟨by simp, two_le_cap h, (reduce_lt_two_mul_p h hd).le⟩

theorem fullReduce_bounded (h : c.wellFormed = true) (a : FElem) : (fullReduce c a).bounded c = true := by
  have hp := p_gt_128 h
  exact bounded_of_le_p h (Nat.mod_lt _ (by omega)).le

theorem zeroElem_bounded (h : c.wellFormed = true) : zeroElem.bounded c = true := bounded_of_le_p h (Nat.zero_le _)

theorem oneElem_bounded (h : c.wellFormed = true) : (oneElem c).bounded c = true := by
  have hp := p_gt_128 h
  refine bounded_of_le_p h ?_
  unfold rep
  split <;> exact (Nat.mod_lt _ (by omega)).le

/-- The conversion of an integer below `p` (40_residue.md R130). -/
theorem toResidue_bounded (h : c.wellFormed = true) {x : Nat} (hx : x < c.p) : (toResidue c x).bounded c = true := by
  have hr2 : c.r2 < c.p := Nat.mod_lt _ (by omega)
  unfold toResidue
  split
  · exact bounded_of_le_p h hx.le
  · exact bounded_of_reduce h ((Nat.mul_le_mul hx.le hr2.le).trans (p_mul_p_le_reduceBound h))

/-- The conversion out of residue form fits an integer register (40_residue.md R132). -/
theorem fromResidue_lt_r (h : c.wellFormed = true) (ha : a.bounded c = true) : fromResidue c a < c.r := by
  unfold fromResidue
  split
  · exact g_lt_r_of_bounded h ha
  · exact (reduce_lt_two_mul_p h ((g_le_cap_mul_p_of_bounded ha).trans (cap_mul_p_le_reduceBound h))).trans
      (two_mul_p_lt_r h)

/-- The capacity check turns any value within its own excess into a bounded element (42_arith.md R170). -/
theorem capped_bounded (h : c.wellFormed = true) (he : 1 ≤ a.e) (hg : a.g ≤ a.e * c.p) :
    (capped c a).bounded c = true := by
  unfold capped
  split
  · exact fullReduce_bounded h a
  · exact bounded_iff.2 ⟨he, by omega, hg⟩

theorem addElem_bounded (h : c.wellFormed = true) (ha : a.bounded c = true) (hb : b.bounded c = true) :
    (addElem c a b).bounded c = true := by
  obtain ⟨he, -, hga⟩ := bounded_iff.1 ha
  obtain ⟨-, -, hgb⟩ := bounded_iff.1 hb
  refine capped_bounded h (Nat.le_add_right_of_le he) ?_
  rw [Nat.add_mul]
  exact Nat.add_le_add hga hgb

theorem negElem_bounded (h : c.wellFormed = true) (a : FElem) : (negElem c a).bounded c = true :=
  capped_bounded h (nextpow2_pos _) (Nat.sub_le _ _)

theorem subElem_bounded (h : c.wellFormed = true) (ha : a.bounded c = true) (b : FElem) :
    (subElem c a b).bounded c = true := addElem_bounded h ha (negElem_bounded h b)

/-- The operand that a multiplication reduces lies within the contract (10_state.md R34, 42_arith.md R181). -/
theorem mulElem_bounded (h : c.wellFormed = true) (ha : a.bounded c = true) (hb : b.bounded c = true) :
    (mulElem c a b).bounded c = true := by
  have hp := p_gt_128 h
  obtain ⟨-, -, hga⟩ := bounded_iff.1 ha
  obtain ⟨-, -, hgb⟩ := bounded_iff.1 hb
  refine bounded_of_reduce h ?_
  rw [reduceBound]
  split
  · have hmod : a.g % c.p ≤ c.p := (Nat.mod_lt _ (by omega)).le
    calc a.g % c.p * b.g ≤ c.p * (c.cap * c.p) := Nat.mul_le_mul hmod (g_le_cap_mul_p_of_bounded hb)
      _ = c.cap * (c.p * c.p) := by ring
  · calc a.g * b.g ≤ a.e * c.p * (b.e * c.p) := Nat.mul_le_mul hga hgb
      _ = a.e * b.e * (c.p * c.p) := by ring
      _ ≤ c.cap * (c.p * c.p) := Nat.mul_le_mul_right _ (by omega)

theorem sqrElem_bounded (h : c.wellFormed = true) (ha : a.bounded c = true) : (sqrElem c a).bounded c = true := by
  have hp := p_gt_128 h
  obtain ⟨-, -, hg⟩ := bounded_iff.1 ha
  refine bounded_of_reduce h ?_
  split
  · have hmod : a.g % c.p ≤ c.p := (Nat.mod_lt _ (by omega)).le
    exact (Nat.mul_le_mul hmod hmod).trans (p_mul_p_le_reduceBound h)
  · calc a.g * a.g ≤ a.e * c.p * (a.e * c.p) := Nat.mul_le_mul hg hg
      _ = a.e * a.e * (c.p * c.p) := by ring
      _ ≤ reduceBound c := Nat.mul_le_mul_right _ (by omega)

/-- A scalar below `p` keeps the product within the contract in the shape-based variants, and can be converted for the
fallback of the others (42_arith.md R199). -/
theorem imulMagnitude_bounded (h : c.wellFormed = true) (ha : a.bounded c = true) {m : Nat} (hm : m < c.p) :
    (imulMagnitude c a m).bounded c = true := by
  obtain ⟨he, -, hg⟩ := bounded_iff.1 ha
  unfold imulMagnitude
  split
  · refine bounded_of_reduce h ?_
    calc a.g * m ≤ c.cap * c.p * c.p := Nat.mul_le_mul (g_le_cap_mul_p_of_bounded ha) hm.le
      _ = reduceBound c := by rw [reduceBound, Nat.mul_assoc]
  · split
    · have hcap := two_le_cap h
      refine bounded_iff.2 ⟨le_max_left _ _, max_le (by omega) ‹_›, ?_⟩
      calc a.g * m ≤ a.e * c.p * m := Nat.mul_le_mul_right _ hg
        _ = a.e * m * c.p := by ring
        _ ≤ max 1 (a.e * m) * c.p := Nat.mul_le_mul_right _ (le_max_right _ _)
    · exact mulElem_bounded h ha (toResidue_bounded h hm)

theorem imulElem_bounded (h : c.wellFormed = true) (ha : a.bounded c = true) {k : Int} (hk : scalarFits k = true) :
    (imulElem c a k).bounded c = true := by
  have hp := p_gt_128 h
  simp only [scalarFits, Bool.and_eq_true, decide_eq_true_eq] at hk
  unfold imulElem
  split
  · exact negElem_bounded h _
  · exact imulMagnitude_bounded h ha (by omega)

/-- Halving keeps the excess, `e >= 1` leaving room for the `p` that an odd value takes (42_arith.md R203). -/
theorem halfElem_bounded (ha : a.bounded c = true) : (halfElem c a).bounded c = true := by
  obtain ⟨he, hcap, hg⟩ := bounded_iff.1 ha
  have hroom : c.p ≤ a.e * c.p := Nat.le_mul_of_pos_left _ he
  unfold halfElem
  split <;> exact bounded_iff.2 ⟨he, hcap, by simp only; omega⟩

end Sys2Proof.Machine
end

section
/-! SUPPORT for the step of a command. What a decoded command is, and that executing one keeps the register files
within 10_state.md R33 and R40. -/

namespace Sys2Proof

/-- The scalar field is a signed byte (30_encoding.md R103). -/
theorem scalarFits_fieldScalar (w : Word) : scalarFits (fieldScalar w) = true := by
  have hle := BitVec.le_toInt (w.extractLsb' 0 8)
  have hlt := BitVec.toInt_lt (x := w.extractLsb' 0 8)
  exact Bool.and_eq_true_iff.2 ⟨decide_eq_true hle, decide_eq_true (by unfold fieldScalar; omega)⟩

/-- The test of 30_encoding.md R107 on bits 1 and 0 excludes the reserved pair. -/
theorem conditionAllowed_of_extract_ne {w : Word} (h : w.extractLsb' 0 2 ≠ 3) :
    conditionAllowed (fieldS w) (fieldC w) = true := by
  simp only [conditionAllowed, Bool.not_eq_true', Bool.and_eq_false_iff]
  by_contra hboth
  obtain ⟨hs, hc⟩ : fieldS w = true ∧ fieldC w = true := by
    simpa only [not_or, Bool.not_eq_false] using hboth
  refine h (BitVec.eq_of_getLsbD_eq fun i hi => ?_)
  obtain rfl | rfl : i = 0 ∨ i = 1 := by omega
  · simpa [fieldC] using hc
  · simpa [fieldS] using hs

/-- A word that an opcode accepts builds a well-formed command (30_encoding.md R103, R106). -/
theorem build_wellFormed {o : Opcode} {w : Word} (h : ¬ ((o = .cswap ∨ o = .cmov) ∧ w.extractLsb' 0 2 = 3)) :
    (o.build w).wellFormed = true := by
  cases o with
  | imul => exact scalarFits_fieldScalar w
  | cswap => exact conditionAllowed_of_extract_ne fun he => h ⟨.inl rfl, he⟩
  | cmov => exact conditionAllowed_of_extract_ne fun he => h ⟨.inr rfl, he⟩
  | _ => rfl

/-- Every command the decoder reads is well formed. -/
theorem wellFormed_of_decode {w : Word} {i : Instr} (h : decode w = .ok i) : i.wellFormed = true := by
  unfold decode at h
  split at h
  · cases h
  · split at h
    · cases h
    · split at h
      · cases h
      · obtain rfl := Except.ok.inj h
        exact build_wellFormed ‹_›

end Sys2Proof

namespace Sys2Proof.Machine

/-! ## Register files within their bounds -/

/-- The two register files as the invariant has them (10_state.md R33, R40). -/
structure FilesOk (s : State) : Prop where
  f : ∀ i : Fin 16, FReg.Ok s.cfg s.f[i]
  x : ∀ i : Fin 16, XReg.Ok s.cfg s.x[i]

section

variable {s : State} (hwf : s.cfg.wellFormed = true) (hs : FilesOk s)

include hs in
/-- A readable F register holds a bounded element. -/
theorem FilesOk.felem_bounded {i : FIdx} (hv : s.validReg (.f i) = true) : (s.felem i).bounded s.cfg = true := by
  obtain ⟨he, hcap, hg, -⟩ := (hs.f i).1 hv
  exact bounded_iff.2 ⟨he, hcap, hg⟩

include hwf hs in
theorem FilesOk.setF {a : FElem} (ha : a.bounded s.cfg = true) (d : FIdx) : FilesOk (s.setF d a) where
  f i := by
    by_cases hi : i = d
    · obtain ⟨he, hcap, hg⟩ := bounded_iff.1 ha
      subst hi
      rw [setF_read_same]
      exact ⟨fun _ => ⟨he, hcap, hg, g_lt_r_of_bounded hwf ha⟩, by simp⟩
    · rw [setF_read_other s a hi]
      exact hs.f i
  x := hs.x

include hs in
theorem FilesOk.setX {v : Nat} (hv : v < s.cfg.r) (d : XIdx) : FilesOk (s.setX d v) where
  f := hs.f
  x i := by
    by_cases hi : i = d
    · subst hi
      rw [setX_read_same]
      exact ⟨hv, by simp⟩
    · rw [setX_read_other s v hi]
      exact hs.x i

include hs in
theorem FilesOk.complete : FilesOk s.complete := ⟨hs.f, hs.x⟩

include hs in
theorem FilesOk.setT (b : Bool) : FilesOk (s.setT b) := ⟨hs.f, hs.x⟩

include hs in
theorem FilesOk.raise (code : ErrCode) (o : Option RegName) : FilesOk (s.raise code o) := ⟨hs.f, hs.x⟩

include hwf hs in
/-- Writing a bounded element and completing. -/
theorem FilesOk.setF_complete {a : FElem} (ha : a.bounded s.cfg = true) (d : FIdx) :
    FilesOk (s.setF d a).complete := (hs.setF hwf ha d).complete

include hs in
/-- An operand check that passes lets the command rely on its sources being valid. -/
theorem FilesOk.checked {srcs : List RegName} {go : State} (hgo : (∀ r ∈ srcs, s.validReg r = true) → FilesOk go) :
    FilesOk (s.checked srcs go) := by
  obtain ⟨hnone, he⟩ | ⟨r, -, he⟩ := checked_cases s srcs go
  · rw [he]
    exact hgo ((firstInvalid_none_iff s srcs).1 hnone)
  · rw [he]
    exact hs.raise _ _

include hs in
/-- The check of a command with one F source. -/
theorem FilesOk.checked_f {a : FIdx} {go : State} (hgo : (s.felem a).bounded s.cfg = true → FilesOk go) :
    FilesOk (s.checked [.f a] go) :=
  hs.checked fun hv => hgo (hs.felem_bounded (hv _ (by simp)))

include hs in
/-- The check of a command with two F sources. -/
theorem FilesOk.checked_ff {a b : FIdx} {go : State}
    (hgo : (s.felem a).bounded s.cfg = true → (s.felem b).bounded s.cfg = true → FilesOk go) :
    FilesOk (s.checked [.f a, .f b] go) :=
  hs.checked fun hv => hgo (hs.felem_bounded (hv _ (by simp))) (hs.felem_bounded (hv _ (by simp)))

include hwf in
theorem romEntry_lt_p (k : Fin 16) : romEntry s.cfg k < s.cfg.p := by
  obtain ⟨-, -, -, -, hrom, -⟩ := (wellFormed_iff s.cfg).1 hwf
  exact (wf6_iff s.cfg).1 hrom k

include hwf hs in
/-- A well-formed command keeps the register files within their bounds (10_state.md R33, R40). -/
theorem FilesOk.exec {i : Instr} (hi : i.wellFormed = true) {t : State} (h : exec i s = .next t) : FilesOk t := by
  cases i <;> obtain rfl := Host.Outcome.next.inj h
  case nop => exact hs.complete
  case zero d => exact hs.setF_complete hwf (zeroElem_bounded hwf) d
  case one d => exact hs.setF_complete hwf (oneElem_bounded hwf) d
  case copy d a => exact hs.checked_f fun ha => hs.setF_complete hwf ha d
  case ldc d k => exact hs.setF_complete hwf (toResidue_bounded hwf (romEntry_lt_p hwf k)) d
  case tores d a =>
    refine hs.checked fun _ => ?_
    split
    · exact hs.raise _ _
    · exact hs.setF_complete hwf (toResidue_bounded hwf (Nat.lt_of_not_le ‹_›)) d
  case fromres d a => exact hs.checked_f fun ha => (hs.setX (fromResidue_lt_r hwf ha) d).complete
  case rdd d a b =>
    refine hs.checked fun _ => ?_
    split
    · exact hs.raise _ _
    · have hlt := reduce_lt_two_mul_p hwf (Nat.le_of_not_lt ‹_›)
      exact (hs.setX (hlt.trans (two_mul_p_lt_r hwf)) d).complete
  case add d a b => exact hs.checked_ff fun ha hb => hs.setF_complete hwf (addElem_bounded hwf ha hb) d
  case sub d a b => exact hs.checked_ff fun ha _ => hs.setF_complete hwf (subElem_bounded hwf ha _) d
  case neg d a => exact hs.checked_f fun _ => hs.setF_complete hwf (negElem_bounded hwf _) d
  case mul d a b => exact hs.checked_ff fun ha hb => hs.setF_complete hwf (mulElem_bounded hwf ha hb) d
  case sqr d a => exact hs.checked_f fun ha => hs.setF_complete hwf (sqrElem_bounded hwf ha) d
  case imul d a k => exact hs.checked_f fun ha => hs.setF_complete hwf (imulElem_bounded hwf ha hi) d
  case half d a => exact hs.checked_f fun ha => hs.setF_complete hwf (halfElem_bounded ha) d
  case fred d a => exact hs.checked_f fun _ => hs.setF_complete hwf (fullReduce_bounded hwf _) d
  case pow d a b => exact hs.checked fun _ => hs.setF_complete hwf (fullReduce_bounded hwf _) d
  case inv d a => exact hs.checked fun _ => hs.setF_complete hwf (fullReduce_bounded hwf _) d
  case sqrt d a =>
    refine hs.checked fun _ => ?_
    split
    · exact hs.raise _ _
    · split <;> exact hs.setF_complete hwf (fullReduce_bounded hwf _) d
  case qr a => exact hs.checked fun _ => (hs.setT _).complete
  case isz a => exact hs.checked fun _ => (hs.setT _).complete
  case equ a b => exact hs.checked fun _ => (hs.setT _).complete
  case cswap d a sel c =>
    refine hs.checked_ff fun ha hd => ?_
    split
    · exact (hs.setF hwf ha d).setF_complete (s := s.setF d _) hwf hd a
    · exact (hs.setF hwf hd d).setF_complete (s := s.setF d _) hwf ha a
  case cmov d a sel c =>
    refine hs.checked_ff fun ha hd => hs.setF_complete hwf ?_ d
    split
    · exact ha
    · exact hd

include hwf hs in
/-- The engine executing a word keeps the register files within their bounds. -/
theorem FilesOk.executeWord {w : Word} {t : State} (h : executeWord w s = .next t) : FilesOk t := by
  unfold Machine.executeWord at h
  split at h
  · exact hs.exec hwf (wellFormed_of_decode ‹_›) h
  · obtain rfl := Host.Outcome.next.inj h
    exact hs.raise _ _

end

end Sys2Proof.Machine
end

section
/-! SUPPORT for the step. What the engine's turn is in each of its cases, what a host access can do, and that every
step keeps the invariant. -/

namespace Sys2Proof.Machine

/-! ## The state after a reset -/

/-- The reset values of a build, with a level of the pin and turns still to come: what each kind of reset leaves. -/
abbrev resetState (c : Cfg) (level : Bool) (turns : List Turn) : State :=
  { State.resetOf c with rstN := level, turns := turns }

theorem resetOf_eq_resetState (c : Cfg) : State.resetOf c = resetState c true [] := rfl

theorem softReset_eq_resetState (s : State) : s.softReset = resetState s.cfg s.rstN s.turns := rfl

theorem setResetPin_false_eq_resetState (s : State) : s.setResetPin false = resetState s.cfg false s.turns := rfl

/-- A register file filled with one value reads that value everywhere. -/
theorem getElem_replicate_16 {α : Type} (r : α) (i : Fin 16) : (Vector.replicate 16 r)[i] = r := by
  simp

/-- Every reset leaves the values of 10_state.md R65. -/
theorem resetState_hasResetValues (c : Cfg) (level : Bool) (turns : List Turn) :
    HasResetValues (resetState c level turns) where
  f := getElem_replicate_16 _
  x := getElem_replicate_16 _
  flag := rfl
  fifo := rfl
  busy := rfl
  idle := rfl
  error := rfl
  done := rfl
  ovf := rfl
  cmddrop := rfl
  accerr := rfl
  cmdcnt := rfl
  ieDone := rfl
  ieErr := rfl
  irq := rfl
  status := by simp [State.statusWord, State.busy, State.idle, bitAt, ErrorState.clear]
  id := rfl

theorem resetState_filesOk {c : Cfg} (level : Bool) (turns : List Turn) : FilesOk (resetState c level turns) where
  f i := by
    rw [show (resetState c level turns).f[i] = FReg.reset from getElem_replicate_16 _ i]
    exact ⟨by simp [FReg.reset], fun _ => rfl⟩
  x i := by
    rw [show (resetState c level turns).x[i] = XReg.reset from getElem_replicate_16 _ i]
    exact ⟨r_pos c, fun _ => rfl⟩

theorem clear_ok : ErrorState.Ok ErrorState.clear := ⟨fun _ => rfl, by simp [ErrorState.clear]⟩

/-- Every reset leads into the invariant, whatever the pin's level after it. -/
theorem resetState_inv {c : Cfg} (h : c.wellFormed = true) (level : Bool) (turns : List Turn) :
    (resetState c level turns).Inv := by
  obtain ⟨hf, hx⟩ := resetState_filesOk (c := c) level turns
  refine ⟨h, hf, hx, Nat.zero_le _, clear_ok, fun _ => ⟨rfl, rfl⟩, ?_⟩
  rintro rfl
  rfl

/-- The state of a well-formed build right after reset meets the invariant (10_state.md R65). -/
theorem resetOf_inv {c : Cfg} (h : c.wellFormed = true) : (State.resetOf c).Inv := by
  rw [resetOf_eq_resetState]
  exact resetState_inv h _ _

/-- The default build is one the model runs (00_scope.md R10). -/
theorem bls381_wellFormed : Config.bls381.wellFormed = true := by decide +kernel

/-! ## The engine's turn -/

section

variable {s : State}

theorem engineTurn_of_inflight {w : Word} (hr : s.rstN = true) (hw : s.inflight = some w) :
    engineTurn s = executeWord w s := by
  simp [engineTurn, hr, hw]

theorem engineTurn_of_not_busy (hr : s.rstN = true) (hb : s.busy = false) : engineTurn s = .next s.beginCommand := by
  have hn : s.inflight = none := by simpa [State.busy] using hb
  simp [engineTurn, hr, hn]

theorem busy_iff : s.busy = true ↔ ∃ w, s.inflight = some w := Option.isSome_iff_exists

theorem beginCommand_of_cons {w : Word} {ws : List Word} (hb : s.busy = false) (he : s.error.err = false)
    (hf : s.fifo = w :: ws) : s.beginCommand = { s with inflight := some w, fifo := ws } := by
  simp [State.beginCommand, hb, he, hf]

theorem beginCommand_of_nothing_to_begin (h : s.error.err = true ∨ s.fifo = []) : s.beginCommand = s := by
  unfold State.beginCommand
  split
  · rfl
  · next hn =>
    obtain he | hf := h
    · simp [he] at hn
    · rw [hf]

/-- Executing a legal word is the command's meaning. -/
theorem executeWord_of_decode {w : Word} {i : Instr} (h : decode w = .ok i) : executeWord w s = exec i s := by
  simp [executeWord, h]

/-- With a word in flight, the engine's move executes it. -/
theorem step_of_inflight {rest : List Turn} {w : Word} (h : EngineMoves s rest) (hw : s.inflight = some w) :
    step s = executeWord w { s with turns := rest } :=
  (step_of_engineMoves h).trans (engineTurn_of_inflight h.running hw)

/-- With nothing in flight, the engine's move begins the next command, if there is one to begin. -/
theorem step_of_not_busy {rest : List Turn} (h : EngineMoves s rest) (hb : s.busy = false) :
    step s = .next (State.beginCommand { s with turns := rest }) :=
  (step_of_engineMoves h).trans (engineTurn_of_not_busy h.running hb)

/-- However a command ends, nothing is in flight after it, and the build and the turns are as they were. -/
theorem CommandResult.frame {t : State} (h : CommandResult s t) :
    t.inflight = none ∧ t.cfg = s.cfg ∧ t.turns = s.turns ∧ t.rstN = s.rstN := by
  obtain ⟨code, o, -, rfl⟩ | ⟨u, ⟨f, x, b, rfl⟩, rfl⟩ := h
  · exact ⟨rfl, rfl, rfl, rfl⟩
  · exact ⟨rfl, rfl, rfl, rfl⟩

theorem executeWord_commandResult {w : Word} {t : State} (h : executeWord w s = .next t) : CommandResult s t := by
  obtain ⟨u, hu, hres⟩ := executeWord_result w s
  rw [h] at hu
  rwa [Host.Outcome.next.inj hu]

end

/-! ## An access of the host -/

/-- Two states that agree in every piece of state but the reply, the flag T, the counter, and the status and control
bits. -/
structure SameCore (s t : State) : Prop where
  cfg : t.cfg = s.cfg
  f : t.f = s.f
  x : t.x = s.x
  fifo : t.fifo = s.fifo
  inflight : t.inflight = s.inflight
  error : t.error = s.error
  rstN : t.rstN = s.rstN
  turns : t.turns = s.turns

/-- Reads, refused accesses and STATUS writes, as far as the invariant can see. -/
theorem sameCore_of_bits (s : State) (done ovf cmddrop accerr ieDone ieErr : Bool) (reply : Option Word) :
    SameCore s
      { s with
        done := done
        ovf := ovf
        cmddrop := cmddrop
        accerr := accerr
        ieDone := ieDone
        ieErr := ieErr
        reply := reply } := by
  constructor <;> rfl

theorem hostRead_sameCore (s : State) (addr : BitVec 14) (size : AccessSize) : SameCore s (s.hostRead addr size) := by
  unfold State.hostRead
  split
  · exact sameCore_of_bits s ..
  · split <;> exact sameCore_of_bits s ..

/-- What a host write can do: nothing the invariant sees, or a write to CTRL, to CMD or to the X window. -/
theorem hostWrite_cases (s : State) (addr : BitVec 14) (size : AccessSize) (data : Word) :
    SameCore s (s.hostWrite addr size data) ∨
      s.hostWrite addr size data = { s.writeCtrl data with reply := none } ∨
      s.hostWrite addr size data = { s.writeCmd data with reply := none } ∨
      ∃ i j, s.hostWrite addr size data = { s.writeXWord i j data with reply := none } := by
  unfold State.hostWrite
  split
  · exact .inl (sameCore_of_bits s ..)
  · next target _ =>
    split
    · exact .inl (sameCore_of_bits s ..)
    · cases target with
      | ctrl => exact .inr (.inl rfl)
      | status => exact .inl (sameCore_of_bits s ..)
      | cmd => exact .inr (.inr (.inl rfl))
      | xword i j => exact .inr (.inr (.inr ⟨i, j, rfl⟩))
      | _ => exact .inl (sameCore_of_bits s ..)

/-- What a write to CTRL can do: a soft reset, or a change of the enables that keeps or clears the error state
(10_state.md R54). -/
theorem writeCtrl_cases (s : State) (data : Word) :
    s.writeCtrl data = s.softReset ∨
      ∃ e, (e = s.error ∨ e = ErrorState.clear) ∧
        s.writeCtrl data = { s with error := e, ieDone := data.getLsbD 2, ieErr := data.getLsbD 3 } := by
  unfold State.writeCtrl
  split
  · exact .inl rfl
  · cases data.getLsbD 1 with
    | false => exact .inr ⟨_, .inl rfl, rfl⟩
    | true => exact .inr ⟨_, .inr rfl, rfl⟩

/-- What a write to CMD can do: set a status bit, or queue the word where there is room and no error
(20_memory.md R82). -/
theorem writeCmd_cases (s : State) (data : Word) :
    SameCore s (s.writeCmd data) ∨
      (s.error.err = false ∧ s.fifo.length ≠ s.cfg.fifoDepth ∧
        s.writeCmd data = { s with fifo := s.fifo ++ [data] }) := by
  unfold State.writeCmd
  split
  · exact .inl (sameCore_of_bits s ..)
  · next he =>
    split
    · exact .inl (sameCore_of_bits s ..)
    · next hroom => exact .inr ⟨by simpa using he, hroom, rfl⟩

theorem hostWrite_frame (s : State) (addr : BitVec 14) (size : AccessSize) (data : Word) :
    (s.hostWrite addr size data).turns = s.turns ∧ (s.hostWrite addr size data).cfg = s.cfg := by
  obtain h | h | h | ⟨i, j, h⟩ := hostWrite_cases s addr size data
  · exact ⟨h.turns, h.cfg⟩
  · obtain hc | ⟨e, -, hc⟩ := writeCtrl_cases s data <;> rw [h, hc] <;> exact ⟨rfl, rfl⟩
  · obtain hc | ⟨-, -, hc⟩ := writeCmd_cases s data
    · rw [h]
      exact ⟨hc.turns, hc.cfg⟩
    · rw [h, hc]
      exact ⟨rfl, rfl⟩
  · rw [h]
    exact ⟨rfl, rfl⟩

theorem hostAccess_frame (s : State) (a : Access) :
    (s.hostAccess a).turns = s.turns ∧ (s.hostAccess a).cfg = s.cfg := by
  unfold State.hostAccess
  split
  · cases a with
    | read addr size =>
      have h := hostRead_sameCore s addr size
      exact ⟨h.turns, h.cfg⟩
    | write addr size data => exact hostWrite_frame s addr size data
  · exact ⟨rfl, rfl⟩

/-! ## What every step leaves -/

theorem engineTurn_frame {s t : State} (h : engineTurn s = .next t) : t.turns = s.turns ∧ t.cfg = s.cfg := by
  obtain ⟨-, rfl⟩ | ⟨-, -, rfl⟩ | ⟨w, -, -, hw⟩ := engineTurn_cases h
  · exact ⟨rfl, rfl⟩
  · obtain he | ⟨w, ws, -, -, -, he⟩ := beginCommand_cases s <;> rw [he] <;> exact ⟨rfl, rfl⟩
  · obtain ⟨-, hcfg, hturns, -⟩ := (executeWord_commandResult hw).frame
    exact ⟨hturns, hcfg⟩

/-- A step takes one turn off and keeps the build (10_state.md R43). -/
theorem step_frame {s t : State} (h : step s = .next t) : t.turns = s.turns.tail ∧ t.cfg = s.cfg := by
  obtain ⟨rest, hturn, he⟩ | ⟨a, rest, hturn, rfl⟩ | ⟨level, rest, hturn, rfl⟩ := step_cases h
  · obtain ⟨ht, hc⟩ := engineTurn_frame he
    obtain ⟨hs, rfl⟩ | hs := hturn <;> exact ⟨by rw [ht, hs]; rfl, hc⟩
  · obtain ⟨ht, hc⟩ := hostAccess_frame { s with turns := rest } a
    exact ⟨by rw [ht, hturn]; rfl, hc⟩
  · cases level <;> exact ⟨by rw [hturn]; rfl, rfl⟩

/-! ## The invariant, kept by each turn -/

section

variable {s t : State}

theorem filesOk_of_inv (hs : s.Inv) : FilesOk s :=
  let ⟨_, hf, hx, _⟩ := hs
  ⟨hf, hx⟩

/-- Out of reset, the clause of the invariant on reset values has nothing to say. -/
theorem inv_of_running (hr : s.rstN = true) (hwf : s.cfg.wellFormed = true) (hfiles : FilesOk s)
    (hfifo : s.fifo.length ≤ s.cfg.fifoDepth) (herr : ErrorState.Ok s.error)
    (hstop : s.error.err = true → s.fifo = [] ∧ s.inflight = none) : s.Inv :=
  ⟨hwf, hfiles.f, hfiles.x, hfifo, herr, hstop, fun h => by simp [hr] at h⟩

theorem SameCore.inv (h : SameCore s t) (hr : s.rstN = true) (hs : s.Inv) : t.Inv := by
  obtain ⟨hcfg, hf, hx, hfifo, hin, herr, hrst, -⟩ := h
  obtain ⟨hwf, hfs, hxs, hlen, hok, hstop, -⟩ := hs
  refine inv_of_running (hrst.trans hr) ?_ ⟨?_, ?_⟩ ?_ ?_ ?_
  · rwa [hcfg]
  · rwa [hcfg, hf]
  · rwa [hcfg, hx]
  · rwa [hcfg, hfifo]
  · rwa [herr]
  · rwa [herr, hfifo, hin]

/-- The turns still to come are the outside's: the invariant does not look at them. -/
theorem inv_with_turns (hs : s.Inv) (turns : List Turn) : State.Inv { s with turns := turns } := by
  obtain ⟨hwf, hf, hx, hlen, hok, hstop, hreset⟩ := hs
  exact ⟨hwf, hf, hx, hlen, hok, hstop, fun h => congrArg (fun u : State => { u with turns := turns }) (hreset h)⟩

/-- The record of an error with a code is coherent (60_exceptions.md R280). -/
theorem errorRecord_ok {code : ErrCode} (hc : code ≠ .none) (o : Option RegName) (w : Word) (idx : BitVec 32) :
    ErrorState.Ok (errorRecord code o w idx) := by
  refine ⟨fun h => ?_, fun _ => ?_⟩
  · simp [errorRecord_err] at h
  · rw [errorRecord_ecode]
    cases o with
    | none => exact ⟨hc, fun _ => ⟨rfl, rfl⟩⟩
    | some r => exact ⟨hc, fun h => by cases h⟩

theorem beginCommand_inv (hr : s.rstN = true) (hs : s.Inv) : s.beginCommand.Inv := by
  obtain he | ⟨w, ws, -, herr, hfifo, he⟩ := beginCommand_cases s
  · rwa [he]
  · obtain ⟨hwf, hf, hx, hlen, hok, -, -⟩ := hs
    rw [he]
    refine inv_of_running hr hwf ⟨hf, hx⟩ ?_ hok fun h => ?_
    · rw [hfifo] at hlen
      exact Nat.le_of_succ_le hlen
    · simp [herr] at h

/-- However a command ends, the invariant holds if its register writes kept their bounds. -/
theorem CommandResult.inv (h : CommandResult s t) (hr : s.rstN = true) (hs : s.Inv) (hfiles : FilesOk t) : t.Inv := by
  obtain ⟨hwf, -, -, hlen, hok, hstop, -⟩ := hs
  obtain ⟨code, o, hc, rfl⟩ | ⟨u, ⟨f, x, b, rfl⟩, rfl⟩ := h
  · exact inv_of_running hr hwf hfiles (Nat.zero_le _) (errorRecord_ok hc o _ _) fun _ => ⟨rfl, rfl⟩
  · exact inv_of_running hr hwf hfiles hlen hok fun he => ⟨(hstop he).1, rfl⟩

theorem engineTurn_inv (hs : s.Inv) (h : engineTurn s = .next t) : t.Inv := by
  obtain ⟨-, rfl⟩ | ⟨hr, -, rfl⟩ | ⟨w, hr, -, hw⟩ := engineTurn_cases h
  · exact hs
  · exact beginCommand_inv hr hs
  · exact (executeWord_commandResult hw).inv hr hs ((filesOk_of_inv hs).executeWord hs.1 hw)

theorem writeCtrl_inv (hr : s.rstN = true) (hs : s.Inv) (data : Word) :
    State.Inv { s.writeCtrl data with reply := none } := by
  obtain hc | ⟨e, he, hc⟩ := writeCtrl_cases s data
  · rw [hc, softReset_eq_resetState]
    exact resetState_inv hs.1 _ _
  · obtain ⟨hwf, hf, hx, hlen, hok, hstop, -⟩ := hs
    rw [hc]
    obtain rfl | rfl := he
    · exact inv_of_running hr hwf ⟨hf, hx⟩ hlen hok hstop
    · exact inv_of_running hr hwf ⟨hf, hx⟩ hlen clear_ok fun h => by cases h

theorem writeCmd_inv (hr : s.rstN = true) (hs : s.Inv) (data : Word) :
    State.Inv { s.writeCmd data with reply := none } := by
  obtain hc | ⟨herr, hroom, hc⟩ := writeCmd_cases s data
  · obtain ⟨hcfg, hf, hx, hfifo, hin, he, hrst, hturns⟩ := hc
    exact SameCore.inv ⟨hcfg, hf, hx, hfifo, hin, he, hrst, hturns⟩ hr hs
  · obtain ⟨hwf, hf, hx, hlen, hok, -, -⟩ := hs
    rw [hc]
    refine inv_of_running hr hwf ⟨hf, hx⟩ ?_ hok fun h => ?_
    · rw [List.length_append]
      exact Nat.lt_of_le_of_ne hlen hroom
    · simp [herr] at h

theorem writeXWord_inv (hr : s.rstN = true) (hs : s.Inv) (i : XIdx) (j : Nat) (data : Word) :
    State.Inv { s.writeXWord i j data with reply := none } := by
  have hlt : replaceWord s.cfg (s.xval i) j data < s.cfg.r := Nat.mod_lt _ (r_pos _)
  obtain ⟨hf, hx⟩ := (filesOk_of_inv hs).setX hlt i
  obtain ⟨hwf, -, -, hlen, hok, hstop, -⟩ := hs
  exact inv_of_running hr hwf ⟨hf, hx⟩ hlen hok hstop

theorem hostWrite_inv (hr : s.rstN = true) (hs : s.Inv) (addr : BitVec 14) (size : AccessSize) (data : Word) :
    (s.hostWrite addr size data).Inv := by
  obtain h | h | h | ⟨i, j, h⟩ := hostWrite_cases s addr size data
  · exact h.inv hr hs
  · rw [h]
    exact writeCtrl_inv hr hs data
  · rw [h]
    exact writeCmd_inv hr hs data
  · rw [h]
    exact writeXWord_inv hr hs i j data

theorem hostAccess_inv (hs : s.Inv) (a : Access) : (s.hostAccess a).Inv := by
  unfold State.hostAccess
  split
  · next hr =>
    cases a with
    | read addr size => exact (hostRead_sameCore s addr size).inv hr hs
    | write addr size data => exact hostWrite_inv hr hs addr size data
  · next hr =>
    obtain ⟨hwf, -, -, -, -, -, hreset⟩ := hs
    rw [hreset (by simpa using hr)]
    exact resetState_inv hwf _ _

theorem setResetPin_inv (hs : s.Inv) (level : Bool) : (s.setResetPin level).Inv := by
  cases level with
  | false =>
    rw [setResetPin_false_eq_resetState]
    exact resetState_inv hs.1 _ _
  | true =>
    obtain ⟨hwf, hf, hx, hlen, hok, hstop, -⟩ := hs
    exact inv_of_running rfl hwf ⟨hf, hx⟩ hlen hok hstop

/-- Whatever the turn, a step keeps the invariant. -/
theorem step_keeps_inv (hs : s.Inv) (h : step s = .next t) : t.Inv := by
  obtain ⟨rest, -, he⟩ | ⟨a, rest, -, rfl⟩ | ⟨level, rest, -, rfl⟩ := step_cases h
  · exact engineTurn_inv (inv_with_turns hs rest) he
  · exact hostAccess_inv (inv_with_turns hs rest) a
  · exact setResetPin_inv (inv_with_turns hs rest) level

end

end Sys2Proof.Machine
end

section
/-! SUPPORT for the host's writes to CTRL and STATUS, and PROOFS of the statements on the state and its moves
(10_state.md): the step, resets, the invariant, and those two writes. -/

namespace Sys2Proof.Machine

section

variable {s : State} {rest : List Turn} {addr : BitVec 14} {data : Word}

/-- A write to what takes writes, outside the data windows, is the write of its target. -/
theorem hostWrite_of_reached {target : Target} {t : State} (hreach : accessTarget s.cfg addr .bits32 = some target)
    (hdata : target.isData = false) (hwrite : s.writeTarget data target = some t) :
    s.hostWrite addr .bits32 data = { t with reply := none } := by
  simp [State.hostWrite, hreach, hdata, hwrite]

/-- A write that reaches a writable register of the window, outside the X and F windows, takes effect whatever the
engine does (20_memory.md R79 to R81). -/
theorem step_of_registerWrite {target : Target} {t : State} (h : HostMoves s (.write addr .bits32 data) rest)
    (hreach : accessTarget s.cfg addr .bits32 = some target) (hdata : target.isData = false)
    (hwrite : State.writeTarget { s with turns := rest } data target = some t) :
    step s = .next { t with reply := none } := by
  rw [step_of_hostMoves h, State.hostAccess, if_pos h.running]
  exact congrArg _ (hostWrite_of_reached hreach hdata hwrite)

theorem step_of_ctrlWrite (h : HostMoves s (.write 0x010 .bits32 data) rest) :
    step s = .next { State.writeCtrl { s with turns := rest } data with reply := none } :=
  step_of_registerWrite h rfl rfl rfl

theorem step_of_statusWrite (h : HostMoves s (.write 0x014 .bits32 data) rest) :
    step s = .next { State.writeStatus { s with turns := rest } data with reply := none } :=
  step_of_registerWrite h rfl rfl rfl

theorem writeCtrl_of_srst (h : data.getLsbD 0 = true) : s.writeCtrl data = s.softReset := by
  simp [State.writeCtrl, h]

theorem writeCtrl_of_no_srst (h : data.getLsbD 0 = false) :
    s.writeCtrl data =
      { s with
        error := if data.getLsbD 1 then ErrorState.clear else s.error
        ieDone := data.getLsbD 2
        ieErr := data.getLsbD 3 } := by
  simp only [State.writeCtrl, h]
  cases data.getLsbD 1 <;> rfl

/-- A soft reset by the host, and the pin falling, lead to the reset state of the build (70_reset_and_hazards.md R320,
R321). -/
theorem step_of_reset (hwf : s.cfg.wellFormed = true)
    (h : (∃ data, HostMoves s (.write 0x010 .bits32 data) rest ∧ data.getLsbD 0 = true) ∨
      s.turns = .resetPin false :: rest) :
    ∃ level, step s = .next (resetState s.cfg level rest) := by
  obtain ⟨data, hmove, hsrst⟩ | hpin := h
  · refine ⟨s.rstN, ?_⟩
    rw [step_of_ctrlWrite hmove, writeCtrl_of_srst hsrst, softReset_eq_resetState]
    rfl
  · refine ⟨false, ?_⟩
    rw [step_of_wellFormed hwf, takeTurn, hpin]
    exact congrArg _ (setResetPin_false_eq_resetState _)

/-- What a host reads of the build depends on the build alone (10_state.md R43). -/
theorem readTarget_eq_of_cfg_eq {t : State} (h : t.cfg = s.cfg) :
    ∀ target ∈ [Target.id, .cfg0, .cfg1, .capr, .mconstlo, .mconsthi], t.readTarget target = s.readTarget target := by
  simp [State.readTarget, h]

end

end Sys2Proof.Machine

namespace Sys2Proof.Proofs

open Sys2Proof Sys2Proof.Machine

/-- Settles O14: the engine's turn keeps the invariant because every operation keeps the bounds of its operands, a host
access because it writes no F register and queues a word only where there is room, the pin because it leaves the reset
values. -/
theorem stepKeepsInvariant : Obligations.StepKeepsInvariant := fun _ _ => step_keeps_inv

/-- Settles O7, by the three things an engine turn can do. -/
theorem engineBeginsHeadOfFifo : Obligations.EngineBeginsHeadOfFifo := by
  intro s rest h
  refine ⟨fun w ws hb he hf => ?_, fun hb hstop => ?_, fun hb => ?_⟩
  · exact (step_of_not_busy h hb).trans (congrArg _ (beginCommand_of_cons hb he hf))
  · exact (step_of_not_busy h hb).trans (congrArg _ (beginCommand_of_nothing_to_begin hstop))
  · obtain ⟨w, hw⟩ := busy_iff.1 hb
    obtain ⟨t, ht, hres⟩ := executeWord_result w { s with turns := rest }
    obtain ⟨hnone, -⟩ := hres.frame
    exact ⟨t, (step_of_inflight h hw).trans ht, by simp [State.busy, hnone]⟩

/-- Settles O10: each of the three resets leads to the reset state of the build, with some level of the pin and the
turns still to come. -/
theorem resetLeavesTheValuesOfR65 : Obligations.ResetLeavesTheValuesOfR65 := by
  refine ⟨fun c => ⟨resetOf_eq_resetState c ▸ resetState_hasResetValues c true [], rfl⟩, fun s rest hwf h => ?_⟩
  obtain ⟨level, hstep⟩ := step_of_reset hwf h
  exact ⟨_, hstep, resetState_hasResetValues _ _ _, rfl, readTarget_eq_of_cfg_eq rfl⟩

/-- Settles O23. -/
theorem ctrlWriteClearsErrorAndSetsEnables : Obligations.CtrlWriteClearsErrorAndSetsEnables := by
  intro s rest data h hsrst
  rw [step_of_ctrlWrite h, writeCtrl_of_no_srst hsrst]
  rfl

/-- Settles O28: each of the four bits keeps its value unless the written bit is 1. -/
theorem statusWriteClearsWrittenBits : Obligations.StatusWriteClearsWrittenBits := by
  intro s rest data h
  refine ⟨_, step_of_statusWrite h, ?_, ?_, ?_, ?_, rfl⟩ <;> simp

/-- Settles O6: the step is the engine's turn, which runs what the word in flight decodes to. -/
theorem stepRunsDecodedCommand : Obligations.StepRunsDecodedCommand := by
  intro s rest w i h hw hi
  rw [step_of_inflight h hw]
  exact ⟨wellFormed_of_decode hi, executeWord_of_decode hi⟩

/-- Settles O13: the reset values meet every clause, and the default build is well formed. -/
theorem resetMeetsInvariant : Obligations.ResetMeetsInvariant :=
  ⟨fun _ => resetOf_inv, resetOf_inv bls381_wellFormed⟩

end Sys2Proof.Proofs
end

section
/-! SUPPORT for the registers a host reads. Which bits of a register word show what: a list of single bits from bit 0
upwards, or numbers laid side by side (10_state.md R50 to R63). -/

namespace Sys2Proof.Machine

/-! ## Words made of single bits -/

theorem bitsFrom_succ (pos : Nat) (bits : List Bool) : bitsFrom (pos + 1) bits = 2 * bitsFrom pos bits := by
  induction bits generalizing pos with
  | nil => rfl
  | cons b rest ih =>
    have hb : bitAt b (pos + 1) = 2 * bitAt b pos := by
      cases b <;> simp [bitAt, pow_succ']
    rw [bitsFrom, bitsFrom, ih, hb, Nat.mul_add]

theorem bitsFrom_zero_cons (b : Bool) (rest : List Bool) :
    bitsFrom 0 (b :: rest) = b.toNat + 2 * bitsFrom 0 rest := by
  rw [bitsFrom, bitsFrom_succ]
  cases b <;> rfl

theorem bitsFrom_lt (bits : List Bool) : bitsFrom 0 bits < 2 ^ bits.length := by
  induction bits with
  | nil => simp [bitsFrom]
  | cons b rest ih =>
    have hb : b.toNat ≤ 1 := Bool.toNat_le b
    rw [bitsFrom_zero_cons, List.length_cons, pow_succ]
    omega

theorem testBit_bitsFrom (bits : List Bool) {i : Nat} (hi : i < bits.length) :
    (bitsFrom 0 bits).testBit i = bits[i] := by
  induction bits generalizing i with
  | nil => simp at hi
  | cons b rest ih =>
    rw [bitsFrom_zero_cons]
    cases i with
    | zero => cases b <;> simp [Nat.testBit_zero, Nat.add_mod]
    | succ i =>
      have hhalf : (b.toNat + 2 * bitsFrom 0 rest) / 2 = bitsFrom 0 rest := by
        have hb : b.toNat ≤ 1 := Bool.toNat_le b
        omega
      rw [Nat.testBit_succ, hhalf, ih (by simpa using hi), List.getElem_cons_succ]

/-- A register word that shows a list of bits from bit 0 upwards, and a number above them. -/
def bitsWord (bits : List Bool) (high : Nat) : Word := BitVec.ofNat 32 (2 ^ bits.length * high + bitsFrom 0 bits)

theorem bitsWord_getLsbD (bits : List Bool) (high : Nat) {i : Nat} (hi : i < bits.length) (h32 : i < 32) :
    (bitsWord bits high).getLsbD i = bits[i] := by
  rw [bitsWord, BitVec.getLsbD_ofNat, Nat.testBit_two_pow_mul_add high (bitsFrom_lt bits), if_pos hi,
    testBit_bitsFrom bits hi, decide_eq_true h32, Bool.true_and]

/-- The bits of the word above the listed ones show the number, shifted. -/
theorem bitsWord_extract (bits : List Bool) (high start len : Nat) (h32 : bits.length + start + len ≤ 32) :
    (bitsWord bits high).extractLsb' (bits.length + start) len = BitVec.ofNat len (high / 2 ^ start) := by
  refine BitVec.eq_of_getLsbD_eq fun i hi => ?_
  have hin : bits.length + start + i < 32 := by omega
  have hout : ¬ bits.length + start + i < bits.length := by omega
  have hpos : bits.length + start + i - bits.length = i + start := by omega
  simp only [BitVec.getLsbD_extractLsb', bitsWord, BitVec.getLsbD_ofNat, hi, hin, decide_true, Bool.true_and,
    Nat.testBit_two_pow_mul_add high (bitsFrom_lt bits), if_neg hout, hpos, Nat.testBit_div_two_pow]

/-- The single bits of STATUS, from bit 0 (10_state.md R55). -/
def State.statusBits (s : State) : List Bool :=
  [s.busy, s.idle, s.error.err, s.tFlag, s.done, s.ovf, s.cmddrop, s.accerr]

theorem statusWord_eq (s : State) : s.statusWord = bitsWord s.statusBits s.fifo.length := by
  simp only [State.statusWord, bitsWord, State.statusBits, bitsFrom, List.length_cons, List.length_nil, Nat.reduceAdd]
  congr 1
  omega

/-- The bits of CTRL as it reads, from bit 0: SRST and CLRERR read 0 (10_state.md R54). -/
def State.ctrlBits (s : State) : List Bool := [false, false, s.ieDone, s.ieErr]

theorem ctrlWord_eq (s : State) : s.ctrlWord = bitsWord s.ctrlBits 0 := by
  simp [State.ctrlWord, bitsWord, State.ctrlBits, bitsFrom, bitAt]

theorem xvalidWord_eq (s : State) : s.xvalidWord = bitsWord (s.x.toList.map XReg.valid) 0 := by
  simp [State.xvalidWord, bitsWord]

theorem fvalidWord_eq (s : State) : s.fvalidWord = bitsWord (s.f.toList.map FReg.valid) 0 := by
  simp [State.fvalidWord, bitsWord]

section

variable (s : State)

theorem statusWord_getLsbD {i : Nat} (hi : i < 8) : s.statusWord.getLsbD i = s.statusBits[i] := by
  rw [statusWord_eq]
  exact bitsWord_getLsbD _ _ hi (by omega)

theorem statusWord_extract (start len : Nat) (h32 : 8 + start + len ≤ 32) :
    s.statusWord.extractLsb' (8 + start) len = BitVec.ofNat len (s.fifo.length / 2 ^ start) := by
  rw [statusWord_eq]
  exact bitsWord_extract s.statusBits _ start len h32

theorem ctrlWord_getLsbD {i : Nat} (hi : i < 4) : s.ctrlWord.getLsbD i = s.ctrlBits[i] := by
  rw [ctrlWord_eq]
  exact bitsWord_getLsbD _ _ hi (by omega)

theorem ctrlWord_low_zero : s.ctrlWord.extractLsb' 0 2 = 0 := by
  refine BitVec.eq_of_getLsbD_eq fun i hi => ?_
  have hbit := ctrlWord_getLsbD s (show i < 4 by omega)
  obtain rfl | rfl : i = 0 ∨ i = 1 := by omega
  · simpa [State.ctrlBits] using hbit
  · simpa [State.ctrlBits] using hbit

theorem ctrlWord_high_zero : s.ctrlWord.extractLsb' 4 28 = 0 := by
  rw [ctrlWord_eq]
  exact bitsWord_extract s.ctrlBits 0 0 28 (by simp [State.ctrlBits])

theorem xvalidWord_getLsbD (i : Fin 16) : s.xvalidWord.getLsbD i.val = s.x[i].valid := by
  rw [xvalidWord_eq, bitsWord_getLsbD _ _ (by simp) (by omega)]
  simp

theorem fvalidWord_getLsbD (i : Fin 16) : s.fvalidWord.getLsbD i.val = s.f[i].valid := by
  rw [fvalidWord_eq, bitsWord_getLsbD _ _ (by simp) (by omega)]
  simp

theorem xvalidWord_high_zero : s.xvalidWord.extractLsb' 16 16 = 0 := by
  have h := bitsWord_extract (s.x.toList.map XReg.valid) 0 0 16 (by simp)
  rw [xvalidWord_eq]
  simpa using h

theorem fvalidWord_high_zero : s.fvalidWord.extractLsb' 16 16 = 0 := by
  have h := bitsWord_extract (s.f.toList.map FReg.valid) 0 0 16 (by simp)
  rw [fvalidWord_eq]
  simpa using h

end

/-! ## Words made of numbers -/

theorem bitAt_eq_toNat_mul (b : Bool) (pos : Nat) : bitAt b pos = b.toNat * 2 ^ pos := by
  cases b <;> simp [bitAt]

theorem toNat_extract_ofNat (n start len : Nat) :
    ((BitVec.ofNat 32 n).extractLsb' start len).toNat = n % 2 ^ 32 / 2 ^ start % 2 ^ len := by
  rw [BitVec.extractLsb'_toNat, BitVec.toNat_ofNat, Nat.shiftRight_eq_div_pow]

theorem extract_ofNat_eq_zero {n start len : Nat} (h : n % 2 ^ 32 / 2 ^ start % 2 ^ len = 0) :
    (BitVec.ofNat 32 n).extractLsb' start len = 0 := by
  refine BitVec.eq_of_toNat_eq ?_
  rw [toNat_extract_ofNat, h]
  simp

theorem getLsbD_ofNat_eq_of_div_mod {n i : Nat} {b : Bool} (hi : i < 32) (h : n / 2 ^ i % 2 = b.toNat) :
    (BitVec.ofNat 32 n).getLsbD i = b := by
  rw [BitVec.getLsbD_ofNat, Nat.testBit_eq_decide_div_mod_eq, h, decide_eq_true hi]
  cases b <;> rfl

theorem ErrCode.code_le (e : ErrCode) : e.code ≤ 4 := by cases e <;> decide

/-- The fields of ERRINFO, the reserved bits included (10_state.md R56). -/
theorem infoWord_fields (e : ErrorState) :
    (e.infoWord.extractLsb' 0 4).toNat = e.ecode.code ∧
      (e.infoWord.extractLsb' 4 4).toNat = e.opidx.val ∧
      e.infoWord.getLsbD 8 = e.opfile ∧
      e.infoWord.getLsbD 9 = e.opvalid ∧
      e.infoWord.extractLsb' 10 22 = 0 := by
  have hcode := e.ecode.code_le
  have hidx := e.opidx.isLt
  have hfile := Bool.toNat_le e.opfile
  have hvalid := Bool.toNat_le e.opvalid
  simp only [ErrorState.infoWord, bitAt_eq_toNat_mul, toNat_extract_ofNat]
  refine ⟨by omega, by omega, getLsbD_ofNat_eq_of_div_mod (by omega) (by omega),
    getLsbD_ofNat_eq_of_div_mod (by omega) (by omega), extract_ofNat_eq_zero (by omega)⟩

theorem infoWord_clear : ErrorState.clear.infoWord = 0 := rfl

/-! ## The registers of the build -/

theorem shapeCode_le (shape : Shape) : shape.code ≤ 3 := by cases shape <;> decide

section

variable {c : Cfg}

/-- The bit length of the modulus is at most the width of a register, so it fits its field (00_scope.md R8). -/
theorem nbits_le_gw (h : c.wellFormed = true) : c.nbits ≤ c.gw := by
  obtain ⟨-, -, hp, hge, hlt, -⟩ := (wf1_iff c).1 (wf1_of_wellFormed h)
  rw [(eq_bitlength_iff (by omega) _).2 ⟨hge, hlt⟩, bitlength_le_iff]
  exact p_lt_r h

theorem ranges_of_wellFormed (h : c.wellFormed = true) :
    1 ≤ c.w ∧ c.w ≤ 64 ∧ 1 ≤ c.n ∧ 1 ≤ c.fifoDepth ∧ c.fifoDepth ≤ 255 :=
  (rangesHold_iff c).1 ((wellFormed_iff c).1 h).1

theorem mod8_eq (h : c.wellFormed = true) : c.mod8 = c.p % 8 := by
  obtain ⟨-, -, -, -, -, hmod⟩ := (wf1_iff c).1 (wf1_of_wellFormed h)
  exact hmod

theorem cap_lt_two_pow (h : c.wellFormed = true) : c.cap < 2 ^ 32 := ((wf2_iff c).1 (wf2_of_wellFormed h)).2.1

/-- The fields of CFG0, the reserved bits included (10_state.md R51). -/
theorem cfg0Word_fields (h : c.wellFormed = true) :
    ((cfg0Word c).extractLsb' 0 2).toNat = c.shape.code ∧
      ((cfg0Word c).extractLsb' 2 3).toNat = c.p % 8 ∧
      (cfg0Word c).extractLsb' 5 3 = 0 ∧
      ((cfg0Word c).extractLsb' 8 8).toNat = c.fifoDepth ∧
      ((cfg0Word c).extractLsb' 16 16).toNat = c.nbits := by
  have hshape := shapeCode_le c.shape
  have hmod := mod8_eq h
  have hnbits := (nbits_le_gw h).trans (gw_le h)
  obtain ⟨-, -, -, -, hdepth⟩ := ranges_of_wellFormed h
  simp only [cfg0Word, toNat_extract_ofNat]
  exact ⟨by omega, by omega, extract_ofNat_eq_zero (by omega), by omega, by omega⟩

/-- The fields of CFG1, the reserved bits included (10_state.md R52). -/
theorem cfg1Word_fields (h : c.wellFormed = true) :
    ((cfg1Word c).extractLsb' 0 7).toNat = c.w ∧
      (cfg1Word c).extractLsb' 7 9 = 0 ∧
      ((cfg1Word c).extractLsb' 16 16).toNat = c.gw := by
  have hgw := gw_le h
  obtain ⟨-, hw, -⟩ := ranges_of_wellFormed h
  simp only [cfg1Word, toNat_extract_ofNat]
  exact ⟨by omega, extract_ofNat_eq_zero (by omega), by omega⟩

theorem n_eq_gw_div_w (h : c.wellFormed = true) : c.n = c.gw / c.w := by
  obtain ⟨hw, -⟩ := ranges_of_wellFormed h
  exact (Nat.mul_div_cancel _ hw).symm

/-- The two words of MCONST, side by side (10_state.md R63). -/
theorem mconstWord_pair (h : c.shape ≠ .gm) :
    (mconstWord c 0).toNat + 2 ^ 32 * (mconstWord c 1).toNat = c.mconst % 2 ^ 64 := by
  simp only [mconstWord, if_neg h, BitVec.toNat_ofNat]
  omega

theorem mconstWord_gm (h : c.shape = .gm) (j : Nat) : mconstWord c j = 0 := if_pos h

end

end Sys2Proof.Machine

namespace Sys2Proof.Proofs

open Sys2Proof Sys2Proof.Machine

/-- Settles O29: each register is its listed bits and numbers, which fit their fields under the invariant. -/
theorem registersShowTheirFields : Obligations.RegistersShowTheirFields := by
  intro s hs
  obtain ⟨hwf, -, -, hlen, ⟨hclear, -⟩, -, -⟩ := hs
  obtain ⟨-, -, -, -, hdepth⟩ := ranges_of_wellFormed hwf
  obtain ⟨hcode, hidx, hfile, hvalid, hres⟩ := infoWord_fields s.error
  have hcount : (s.statusWord.extractLsb' 8 8).toNat = s.fifo.length := by
    have h := congrArg BitVec.toNat (statusWord_extract s 0 8 (by decide))
    rw [BitVec.toNat_ofNat, pow_zero, Nat.div_one, Nat.mod_eq_of_lt (by omega)] at h
    exact h
  have hreserved : s.statusWord.extractLsb' 16 16 = 0 := by
    have h := statusWord_extract s 8 16 (by decide)
    rwa [Nat.div_eq_of_lt (by omega)] at h
  have hidle : s.statusWord.getLsbD 1 = decide (s.inflight = none ∧ s.fifo = []) := by
    rw [Bool.eq_iff_iff, decide_eq_true_iff, ← idle_iff]
    exact Bool.eq_iff_iff.1 (statusWord_getLsbD s (i := 1) (by decide))
  exact ⟨rfl, rfl, rfl, rfl, rfl,
    fun he => by
      simp only [State.readTarget, hclear he]
      exact ⟨infoWord_clear, rfl, rfl⟩,
    ctrlWord_low_zero s, ctrlWord_getLsbD s (i := 2) (by decide), ctrlWord_getLsbD s (i := 3) (by decide),
    ctrlWord_high_zero s, xvalidWord_getLsbD s, xvalidWord_high_zero s, fvalidWord_getLsbD s, fvalidWord_high_zero s,
    hcode, hidx, hfile, hvalid, hres,
    statusWord_getLsbD s (i := 0) (by decide), hidle, statusWord_getLsbD s (i := 2) (by decide),
    statusWord_getLsbD s (i := 3) (by decide), statusWord_getLsbD s (i := 4) (by decide),
    statusWord_getLsbD s (i := 5) (by decide), statusWord_getLsbD s (i := 6) (by decide),
    statusWord_getLsbD s (i := 7) (by decide), hcount, hreserved⟩

/-- Settles O30: the four bits a host reads are the four bits of the level. -/
theorem irqFollowsStatusAndCtrl : Obligations.IrqFollowsStatusAndCtrl := by
  intro s _
  have hdone : (s.readTarget .status).getLsbD 4 = s.done := statusWord_getLsbD s (by decide)
  have herr : (s.readTarget .status).getLsbD 2 = s.error.err := statusWord_getLsbD s (by decide)
  have hieDone : (s.readTarget .ctrl).getLsbD 2 = s.ieDone := ctrlWord_getLsbD s (by decide)
  have hieErr : (s.readTarget .ctrl).getLsbD 3 = s.ieErr := ctrlWord_getLsbD s (by decide)
  rw [hdone, herr, hieDone, hieErr]
  exact ⟨by simp [State.irq], rfl⟩

/-- Settles O31: the numbers of a well-formed build fit their fields. -/
theorem constantRegistersShowTheBuild : Obligations.ConstantRegistersShowTheBuild := by
  intro s h
  obtain ⟨hshape, hmod8, hres0, hdepth, hnbits⟩ := cfg0Word_fields h
  obtain ⟨hw, hres1, hgw⟩ := cfg1Word_fields h
  have hcap : (s.readTarget .capr).toNat = s.cfg.cap := by
    simp only [State.readTarget, BitVec.toNat_ofNat, Nat.mod_eq_of_lt (cap_lt_two_pow h)]
  exact ⟨hshape, hmod8, hres0, hdepth, hnbits, hw, hres1, hgw, n_eq_gw_div_w h, hcap, mconstWord_pair,
    fun hgm => ⟨mconstWord_gm hgm 0, mconstWord_gm hgm 1⟩⟩

end Sys2Proof.Proofs
end

section
/-! SUPPORT for runs, and PROOF of the statement on them: a run from a state of the invariant never stops, and its
command sequence ends, with the counter or the error record saying how (60_exceptions.md R300). -/

namespace Sys2Proof.Machine

/-! ## The end of a sequence, as a host sees it -/

theorem statusWord_idle (s : State) : s.statusWord.getLsbD 1 = s.idle := statusWord_getLsbD s (by decide)

theorem ended_iff (s : State) :
    s.ended = true ↔ s.idle = true ∧ ∀ data, Turn.host (.write 0x028 .bits32 data) ∉ s.turns := by
  simp only [State.ended, State.allCommandsWritten, Bool.and_eq_true, Bool.not_eq_true', List.any_eq_false,
    isCmdWrite_iff]
  refine and_congr_right fun _ => ⟨fun h data hmem => h _ hmem ⟨data, rfl⟩, ?_⟩
  rintro h turn hmem ⟨data, rfl⟩
  exact h data hmem

/-- With no turn left, the sequence has ended when the engine is idle. -/
theorem ended_of_idle {s : State} (hi : s.idle = true) (ht : s.turns = []) : s.ended = true := by
  simp [ended_iff, hi, ht]

section

variable {s t : State}

/-- The block in reset is idle (70_reset_and_hazards.md R320). -/
theorem idle_of_in_reset (hs : s.Inv) (hr : s.rstN = false) : s.idle = true := by
  obtain ⟨-, -, -, -, -, -, hreset⟩ := hs
  rw [hreset hr]
  rfl

/-- A stopped engine is idle (60_exceptions.md R283, R289). -/
theorem idle_of_err (hs : s.Inv) (he : s.error.err = true) : s.idle = true := by
  obtain ⟨-, -, -, -, -, hstop, -⟩ := hs
  exact (idle_iff s).2 (hstop he).symm

/-! ## A run does not stop -/

theorem exists_step_of_inv (hs : s.Inv) : ∃ t, step s = .next t ∧ t.Inv := by
  obtain ⟨t, ht⟩ := takeTurn_next s
  rw [← step_of_wellFormed hs.1] at ht
  exact ⟨t, ht, step_keeps_inv hs ht⟩

theorem safeFor_of_inv (hs : s.Inv) (k : Nat) : SafeFor s k := by
  induction k generalizing s with
  | zero => exact hs
  | succ k ih =>
    obtain ⟨t, hstep, ht⟩ := exists_step_of_inv hs
    exact ⟨hs, t, hstep, ih ht⟩

/-! ## The engine with no turn left to the host -/

/-- With no turn left and the sequence not ended, the engine begins the head of the FIFO or ends the command in flight
(10_state.md R45). -/
theorem exists_step_of_no_turns (hs : s.Inv) (ht : s.turns = []) (he : s.ended = false) :
    ∃ t, step s = .next t ∧ t.Inv ∧ t.turns = [] ∧
      ((∃ w ws, s.inflight = none ∧ s.fifo = w :: ws ∧ t = { s with inflight := some w, fifo := ws }) ∨
        ∃ w, s.inflight = some w ∧ CommandResult s t) := by
  have hbusy : ¬ s.idle = true := fun hi => by simp [ended_of_idle hi ht] at he
  have hr : s.rstN = true := by
    by_contra hr
    exact hbusy (idle_of_in_reset hs (by simpa using hr))
  obtain ⟨t, hstep, hinv⟩ := exists_step_of_inv hs
  refine ⟨t, hstep, hinv, by rw [(step_frame hstep).1, ht]; rfl, ?_⟩
  have hturn : engineTurn s = .next t := by rwa [step_of_wellFormed hs.1, takeTurn, ht] at hstep
  cases hin : s.inflight with
  | some w =>
    rw [engineTurn_of_inflight hr hin] at hturn
    exact .inr ⟨w, rfl, executeWord_commandResult hturn⟩
  | none =>
    have hb : s.busy = false := by simp [State.busy, hin]
    rw [engineTurn_of_not_busy hr hb] at hturn
    obtain rfl := Host.Outcome.next.inj hturn
    cases hf : s.fifo with
    | nil => exact absurd ((idle_iff s).2 ⟨hin, hf⟩) hbusy
    | cons w ws =>
      have herr : s.error.err = false := by
        by_contra herr
        exact hbusy (idle_of_err hs (by simpa using herr))
      exact .inl ⟨w, ws, rfl, rfl, beginCommand_of_cons hb herr hf⟩

/-- The moves of the engine that the pending words still ask for: two for each word queued, one for a word in flight. -/
def State.movesLeft (s : State) : Nat := 2 * s.fifo.length + s.inflight.toList.length

theorem CommandResult.fifo_length_le (h : CommandResult s t) : t.fifo.length ≤ s.fifo.length := by
  obtain ⟨code, o, -, rfl⟩ | ⟨u, ⟨f, x, b, rfl⟩, rfl⟩ := h
  · exact Nat.zero_le _
  · exact le_rfl

theorem CommandResult.movesLeft_lt {w : Word} (h : CommandResult s t) (hw : s.inflight = some w) :
    t.movesLeft < s.movesLeft := by
  have hlen := h.fifo_length_le
  obtain ⟨hnone, -⟩ := h.frame
  simp only [State.movesLeft, hnone, hw, Option.toList_none, Option.toList_some, List.length_nil, List.length_singleton]
  omega

/-- With no turn left, every move brings the end nearer. -/
theorem runToEnd_of_no_turns (hs : s.Inv) (ht : s.turns = []) {k : Nat} (hk : s.movesLeft ≤ k) :
    ∃ t, runToEnd k s = some t := by
  induction k generalizing s with
  | zero =>
    have hidle : s.inflight = none ∧ s.fifo = [] := by
      simp only [State.movesLeft, Nat.le_zero, Nat.add_eq_zero_iff, List.length_eq_zero_iff, Nat.mul_eq_zero,
        Option.toList_eq_nil_iff] at hk
      tauto
    exact ⟨s, runToEnd_of_ended (ended_of_idle ((idle_iff s).2 hidle) ht) 0⟩
  | succ k ih =>
    cases he : s.ended with
    | true => exact ⟨s, runToEnd_of_ended he _⟩
    | false =>
      obtain ⟨t, hstep, hinv, htt, hmove⟩ := exists_step_of_no_turns hs ht he
      have hless : t.movesLeft < s.movesLeft := by
        obtain ⟨w, ws, hin, hf, rfl⟩ | ⟨w, hw, hres⟩ := hmove
        · simp [State.movesLeft, hin, hf]
          omega
        · exact hres.movesLeft_lt hw
      rw [runToEnd_succ he hstep]
      exact ih hinv htt (by omega)

/-- The FIFO's depth bounds the moves left. -/
theorem movesLeft_le_of_inv (hs : s.Inv) : s.movesLeft ≤ 2 * s.cfg.fifoDepth + 1 := by
  obtain ⟨-, -, -, hlen, -⟩ := hs
  have hin : s.inflight.toList.length ≤ 1 := by cases s.inflight <;> simp
  unfold State.movesLeft
  omega

/-- Every sequence ends: once its turns are taken, only the pending words are left (60_exceptions.md R300). -/
theorem runToEnd_of_inv (hs : s.Inv) : ∃ t, runToEnd (s.turns.length + 2 * s.cfg.fifoDepth + 1) s = some t := by
  generalize hturns : s.turns = turns
  induction turns generalizing s with
  | nil =>
    refine runToEnd_of_no_turns hs hturns ?_
    have hle := movesLeft_le_of_inv hs
    simpa using hle
  | cons turn rest ih =>
    cases he : s.ended with
    | true => exact ⟨s, runToEnd_of_ended he _⟩
    | false =>
      obtain ⟨t, hstep, hinv⟩ := exists_step_of_inv hs
      obtain ⟨htt, hcfg⟩ := step_frame hstep
      obtain ⟨u, hu⟩ := ih hinv (by rw [htt, hturns]; rfl)
      have hbound : (turn :: rest).length + 2 * s.cfg.fifoDepth + 1 = rest.length + 2 * t.cfg.fifoDepth + 1 + 1 := by
        rw [hcfg, List.length_cons]
        omega
      exact ⟨u, by rw [hbound, runToEnd_succ he hstep, hu]⟩

/-! ## The result is the first ended state of the run -/

/-- A run whose first step has a next state goes on from there. -/
theorem run_succ_of_step {M : Host.Core} {s t : M.State} (h : M.step s = .next t) (k : Nat) :
    M.run (k + 1) s = M.run k t := by
  rw [Host.Core.run, h]

theorem core_run_succ (hstep : step s = .next t) (k : Nat) : core.run (k + 1) s = core.run k t :=
  run_succ_of_step (M := core) hstep k

/-- `t` is the first ended state on the run from `s`, reached within `k` steps. -/
def FirstEnd (s t : State) (k : Nat) : Prop :=
  t.ended = true ∧ ∃ j, j ≤ k ∧ core.run j s = .next t ∧
    ∀ i, i < j → ∀ u : State, core.run i s = .next u → u.ended = false

theorem runToEnd_firstEnd {k : Nat} (h : runToEnd k s = some t) : FirstEnd s t k := by
  induction k generalizing s with
  | zero =>
    obtain ⟨he, rfl⟩ | ⟨j, u, hk, -⟩ := runToEnd_cases h
    · exact ⟨he, 0, le_rfl, rfl, fun i hi => absurd hi (Nat.not_lt_zero i)⟩
    · cases hk
  | succ k ih =>
    obtain ⟨he, rfl⟩ | ⟨j, u, hk, he, hstep, hrun⟩ := runToEnd_cases h
    · exact ⟨he, 0, Nat.zero_le _, rfl, fun i hi => absurd hi (Nat.not_lt_zero i)⟩
    · obtain rfl := Nat.succ.inj hk
      obtain ⟨hend, j, hj, hrun, hbefore⟩ := ih hrun
      refine ⟨hend, j + 1, Nat.succ_le_succ hj, by rw [core_run_succ hstep, hrun], fun i hi v hv => ?_⟩
      cases i with
      | zero =>
        obtain rfl : s = v := Host.Outcome.next.inj hv
        exact he
      | succ i =>
        rw [core_run_succ hstep] at hv
        exact hbefore i (Nat.lt_of_succ_lt_succ hi) v hv

/-! ## What the counter and the record say -/

/-- A sequence that has ended has no word left to count. -/
theorem endsAsRecorded_of_ended (he : s.ended = true) (herr : s.error.err = false) : EndsAsRecorded s s := by
  obtain ⟨hidle, -⟩ := (ended_iff s).1 he
  obtain ⟨hin, hf⟩ := (idle_iff s).1 hidle
  exact .inl ⟨herr, by simp [State.pending, hin, hf]⟩

/-- A sequence that ends after completing its first pending word, when the rest ends as recorded. -/
theorem EndsAsRecorded.of_completed {u : State} {w : Word} (hpend : s.pending = w :: u.pending)
    (hcnt : u.cmdcnt = s.cmdcnt + 1) (h : EndsAsRecorded u t) : EndsAsRecorded s t := by
  have hnext (n : Nat) : s.cmdcnt + 1 + BitVec.ofNat 32 n = s.cmdcnt + BitVec.ofNat 32 (n + 1) := by
    rw [BitVec.ofNat_add, BitVec.add_assoc, BitVec.add_comm 1]
    rfl
  obtain ⟨he, hc⟩ | ⟨he, before, w', after, hp, hcmd, hidx, hc⟩ := h
  · exact .inl ⟨he, by rw [hc, hcnt, hpend, List.length_cons, hnext]⟩
  · exact .inr ⟨he, w :: before, w', after, by rw [hpend, hp]; rfl, hcmd,
      by rw [hidx, hcnt, List.length_cons, hnext], hc⟩

/-- Error entry ends the sequence at its first pending word, and the record names it (60_exceptions.md R283). -/
theorem endsAsRecorded_of_raise {w : Word} (hw : s.inflight = some w) (code : ErrCode) (o : Option RegName) :
    EndsAsRecorded s (s.raise code o) := by
  refine .inr ⟨errorRecord_err _ _ _ _, [], w, s.fifo, by simp [State.pending, hw], ?_, ?_, ?_⟩ <;>
    cases o <;> simp [errorRecord, hw]

/-- With no turn left and no error at the start, the counter or the record says how the sequence went
(60_exceptions.md R300). -/
theorem runToEnd_endsAsRecorded {k : Nat} (hs : s.Inv) (ht : s.turns = []) (herr : s.error.err = false)
    (h : runToEnd k s = some t) : EndsAsRecorded s t := by
  induction k generalizing s with
  | zero =>
    obtain ⟨he, rfl⟩ | ⟨j, u, hk, -⟩ := runToEnd_cases h
    · exact endsAsRecorded_of_ended he herr
    · cases hk
  | succ k ih =>
    obtain ⟨he, rfl⟩ | ⟨j, u, hk, he, hstep, hrun⟩ := runToEnd_cases h
    · exact endsAsRecorded_of_ended he herr
    · obtain rfl := Nat.succ.inj hk
      obtain ⟨u', hstep', hinv, htu, hmove⟩ := exists_step_of_no_turns hs ht he
      obtain rfl : u = u' := Host.Outcome.next.inj (hstep.symm.trans hstep')
      obtain ⟨w, ws, hin, hf, rfl⟩ | ⟨w, hw, ⟨code, o, -, rfl⟩ | ⟨v, ⟨f, x, b, rfl⟩, rfl⟩⟩ := hmove
      · have hsame : State.pending { s with inflight := some w, fifo := ws } = s.pending := by
          simp [State.pending, hin, hf]
        have hrec := ih hinv htu herr hrun
        unfold EndsAsRecorded at hrec ⊢
        rwa [hsame] at hrec
      · have hstopped := ended_of_idle (idle_of_err hinv (errorRecord_err _ _ _ _)) htu
        rw [runToEnd_of_ended hstopped] at hrun
        obtain rfl := Option.some.inj hrun
        exact endsAsRecorded_of_raise hw code o
      · exact (ih hinv htu herr hrun).of_completed (w := w) (by simp [State.pending, hw]) rfl

end

end Sys2Proof.Machine

namespace Sys2Proof.Proofs

open Sys2Proof Sys2Proof.Machine

/-- Settles O15: the invariant is kept, the pending words bound the moves after the last turn, and each move of the
engine with no turn left either keeps the pending words, completes the first, or records it. -/
theorem runsStaySafeAndEnd : Obligations.RunsStaySafeAndEnd := by
  refine ⟨fun t => ?_, fun s k hs => ⟨safeFor_of_inv hs k, runToEnd_of_inv hs, fun t h => ?_⟩⟩
  · rw [ended_iff, show (t.readTarget .status).getLsbD 1 = t.idle from statusWord_idle t]
  · obtain ⟨hend, hfirst⟩ := runToEnd_firstEnd h
    exact ⟨hend, hfirst, fun ht herr => runToEnd_endsAsRecorded hs ht herr h⟩

end Sys2Proof.Proofs
end

section
/-! SUPPORT for the host window (20_memory.md). The address map as one equivalence: an offset of the map belongs to one
target, and a target of the build has one offset. -/

namespace Sys2Proof.Machine

/-! ## The offset of each target -/

/-- Where the address map lists a target (20_memory.md R74). -/
def Target.offset : Target → Nat
  | .id => 0x000
  | .cfg0 => 0x004
  | .cfg1 => 0x008
  | .capr => 0x00C
  | .ctrl => 0x010
  | .status => 0x014
  | .errinfo => 0x018
  | .errcmd => 0x01C
  | .erridx => 0x020
  | .cmdcnt => 0x024
  | .cmd => 0x028
  | .xvalid => 0x02C
  | .fvalid => 0x030
  | .mconstlo => 0x034
  | .mconsthi => 0x038
  | .mod j => 0x100 + 4 * j
  | .xword i j => 0x1000 + 0x100 * i.val + 4 * j
  | .fword i j => 0x2000 + 0x100 * i.val + 4 * j
  | .fexcess i => 0x2000 + 0x100 * i.val + 0xFC

/-- A build has the words below `XW` of each window slot, and every other target (20_memory.md R74). -/
def Target.Present (c : Cfg) : Target → Prop
  | .mod j => j < c.xw
  | .xword _ j => j < c.xw
  | .fword _ j => j < c.xw
  | _ => True

section

variable {c : Cfg} {off : Nat} {target : Target}

theorem slotIndex_val (off : Nat) : (slotIndex off).val = off / 0x100 % 16 := rfl

theorem slotIndex_slot (i : Fin 16) {k : Nat} (hk : k < 0x100) : slotIndex (0x100 * i.val + k) = i := by
  refine Fin.ext ?_
  rw [slotIndex_val]
  omega

/-- A register fits its window slot, with the last word of an F slot left for the excess (00_scope.md R9 WF7). -/
theorem xw_le (h : c.wellFormed = true) : c.xw ≤ 63 := by
  have := gw_le h
  unfold Cfg.xw
  omega

theorem registerTarget_sound (h : registerTarget off = some target) :
    (∀ c, target.Present c) ∧ off = target.offset ∧ off < 0x100 := by
  unfold registerTarget at h
  split at h <;> cases h <;> exact ⟨fun _ => trivial, rfl, by decide⟩

theorem windowTarget_sound (h : windowTarget c off = some target) (ha : off % 4 = 0) :
    target.Present c ∧ off = target.offset := by
  unfold windowTarget at h
  split_ifs at h with hmod hj hx hj hf hj hlast <;> cases h
  · exact ⟨hj, by simp only [Target.offset, slotWord]; omega⟩
  · exact ⟨hj, by simp only [Target.offset, slotWord, slotIndex_val]; omega⟩
  · exact ⟨hj, by simp only [Target.offset, slotWord, slotIndex_val]; omega⟩
  · unfold slotWord at hlast
    exact ⟨trivial, by simp only [Target.offset, slotIndex_val]; omega⟩

theorem targetAt_sound (h : targetAt c off = some target) (ha : off % 4 = 0) :
    target.Present c ∧ off = target.offset := by
  obtain hreg | ⟨-, hwin⟩ := Option.or_eq_some_iff.1 h
  · obtain ⟨hp, ho, -⟩ := registerTarget_sound hreg
    exact ⟨hp c, ho⟩
  · exact windowTarget_sound hwin ha

theorem registerTarget_eq_none (h : 0x100 ≤ off) : registerTarget off = none := by
  refine Option.eq_none_iff_forall_ne_some.2 fun target ht => ?_
  obtain ⟨-, -, hlt⟩ := registerTarget_sound ht
  omega

theorem registerTarget_offset (h : target.offset < 0x100) : registerTarget target.offset = some target := by
  cases target with
  | mod j => exact absurd h (Nat.not_lt.2 (Nat.le_add_right ..))
  | xword i j | fword i j | fexcess i =>
    simp only [Target.offset] at h
    omega
  | _ => rfl

/-- The modulus window, `k` bytes after its start. -/
theorem windowTarget_mod {k : Nat} (hk : k < 0x100) :
    windowTarget c (0x100 + k) = if k / 4 < c.xw then some (.mod (k / 4)) else none := by
  have hword : slotWord (0x100 + k) = k / 4 := by unfold slotWord; omega
  rw [windowTarget, if_pos (by omega), hword]

/-- The slot of `X[i]`, `k` bytes after its start. -/
theorem windowTarget_x (i : XIdx) {k : Nat} (hk : k < 0x100) :
    windowTarget c (0x1000 + (0x100 * i.val + k)) = if k / 4 < c.xw then some (.xword i (k / 4)) else none := by
  have hword : slotWord (0x1000 + (0x100 * i.val + k)) = k / 4 := by unfold slotWord; omega
  rw [windowTarget, if_neg (by omega), if_pos (by omega), hword, Nat.add_sub_cancel_left, slotIndex_slot i hk]

/-- The slot of `F[i]`, `k` bytes after its start. -/
theorem windowTarget_f (i : FIdx) {k : Nat} (hk : k < 0x100) :
    windowTarget c (0x2000 + (0x100 * i.val + k)) =
      if k / 4 < c.xw then some (.fword i (k / 4)) else if k / 4 = 63 then some (.fexcess i) else none := by
  have hword : slotWord (0x2000 + (0x100 * i.val + k)) = k / 4 := by unfold slotWord; omega
  rw [windowTarget, if_neg (by omega), if_neg (by omega), if_pos (by omega), hword, Nat.add_sub_cancel_left,
    slotIndex_slot i hk]

theorem windowTarget_offset (hxw : c.xw ≤ 63) (hp : target.Present c) (hw : 0x100 ≤ target.offset) :
    windowTarget c target.offset = some target := by
  cases target with
  | mod j =>
    have hj : j < c.xw := hp
    rw [Target.offset, windowTarget_mod (by omega), Nat.mul_div_cancel_left j (by decide), if_pos hj]
  | xword i j =>
    have hj : j < c.xw := hp
    rw [Target.offset, Nat.add_assoc, windowTarget_x i (by omega), Nat.mul_div_cancel_left j (by decide), if_pos hj]
  | fword i j =>
    have hj : j < c.xw := hp
    rw [Target.offset, Nat.add_assoc, windowTarget_f i (by omega), Nat.mul_div_cancel_left j (by decide), if_pos hj]
  | fexcess i => rw [Target.offset, Nat.add_assoc, windowTarget_f i (by decide), if_neg (by omega), if_pos rfl]
  | _ => exact absurd hw (by decide)

/-- The address map, target by target (20_memory.md R74). -/
theorem targetAt_eq_some_iff (hxw : c.xw ≤ 63) (ha : off % 4 = 0) :
    targetAt c off = some target ↔ target.Present c ∧ off = target.offset := by
  constructor
  · exact fun h => targetAt_sound h ha
  · rintro ⟨hp, rfl⟩
    obtain hw | hw := Nat.lt_or_ge target.offset 0x100
    · rw [targetAt, registerTarget_offset hw, Option.some_or]
    · rw [targetAt, registerTarget_eq_none hw, Option.none_or, windowTarget_offset hxw hp hw]

/-! ## What an access reaches -/

theorem Target.offset_mod_four (target : Target) : target.offset % 4 = 0 := by
  cases target with
  | mod j | xword i j | fword i j | fexcess i =>
    rw [Target.offset]
    omega
  | _ => rfl

variable {addr : BitVec 14} {size : AccessSize}

theorem accessTarget_sound (h : accessTarget c addr size = some target) :
    size = .bits32 ∧ target.Present c ∧ addr.toNat = target.offset := by
  unfold accessTarget at h
  split at h
  · next hok =>
    obtain ⟨hsize, ha⟩ := hok
    exact ⟨hsize, targetAt_sound h ha⟩
  · cases h

/-- An access reaches a target of the build iff it is 32 bits wide and at the target's offset
(20_memory.md R72 to R74). -/
theorem accessTarget_eq_some_iff (h : c.wellFormed = true) :
    accessTarget c addr size = some target ↔ size = .bits32 ∧ target.Present c ∧ addr.toNat = target.offset := by
  refine ⟨accessTarget_sound, fun ⟨hsize, hp, ho⟩ => ?_⟩
  have ha : addr.toNat % 4 = 0 := ho ▸ target.offset_mod_four
  rw [accessTarget, if_pos ⟨hsize, ha⟩]
  exact (targetAt_eq_some_iff (xw_le h) ha).2 ⟨hp, ho⟩

/-- The listed offsets are the offsets of the targets. -/
theorem mappedOffset_iff : MappedOffset c off ↔ ∃ target : Target, target.Present c ∧ off = target.offset := by
  constructor
  · rintro (⟨k, hk, rfl⟩ | ⟨j, hj, rfl⟩ | ⟨i, j, hi, hj, rfl⟩ | ⟨i, j, hi, hj, rfl⟩ | ⟨i, hi, rfl⟩)
    · have hreg : ∃ target, registerTarget (4 * k) = some target := by interval_cases k <;> exact ⟨_, rfl⟩
      obtain ⟨target, ht⟩ := hreg
      obtain ⟨hp, ho, -⟩ := registerTarget_sound ht
      exact ⟨target, hp c, ho⟩
    · exact ⟨.mod j, hj, rfl⟩
    · exact ⟨.xword ⟨i, hi⟩ j, hj, rfl⟩
    · exact ⟨.fword ⟨i, hi⟩ j, hj, rfl⟩
    · exact ⟨.fexcess ⟨i, hi⟩, trivial, rfl⟩
  · rintro ⟨target, hp, rfl⟩
    have hquarter : target.offset = 4 * (target.offset / 4) := by
      have := target.offset_mod_four
      omega
    cases target with
    | mod j => exact .inr (.inl ⟨j, hp, rfl⟩)
    | xword i j => exact .inr (.inr (.inl ⟨i, j, i.isLt, hp, rfl⟩))
    | fword i j => exact .inr (.inr (.inr (.inl ⟨i, j, i.isLt, hp, rfl⟩)))
    | fexcess i => exact .inr (.inr (.inr (.inr ⟨i, i.isLt, rfl⟩)))
    | _ => exact .inl ⟨_, by decide, hquarter⟩

/-- The data windows lie above every other target (20_memory.md R74, R80). -/
theorem isData_iff (h : c.wellFormed = true) (hp : target.Present c) :
    target.isData = true ↔ 0x1000 ≤ target.offset := by
  have hxw := xw_le h
  cases target with
  | mod j =>
    have hj : j < c.xw := hp
    refine iff_of_false Bool.false_ne_true ?_
    rw [Target.offset]
    omega
  | xword i j | fword i j | fexcess i =>
    refine iff_of_true rfl ?_
    rw [Target.offset]
    omega
  | _ => decide

end

end Sys2Proof.Machine
end

section
/-! SUPPORT for the host's accesses. Which of them the window accepts, what a read and a write then do, and that every
other access is refused (20_memory.md R79 to R82). -/

namespace Sys2Proof.Machine

/-! ## The accesses that the window accepts -/

/-- An access is accepted when it reaches a target, and the engine is IDLE if that target lies in a data window
(20_memory.md R79, R80). -/
structure State.Accepts (s : State) (addr : BitVec 14) (size : AccessSize) (target : Target) : Prop where
  reaches : accessTarget s.cfg addr size = some target
  opened : target.isData = true → s.idle = true

section

variable {s : State} {rest : List Turn} {addr : BitVec 14} {size : AccessSize} {target : Target} {data : Word}

theorem State.Accepts.not_refused (h : s.Accepts addr size target) : (target.isData && !s.idle) = false := by
  cases hd : target.isData with
  | false => rfl
  | true => simp [h.opened hd]

theorem hostRead_of_accepts (h : s.Accepts addr size target) :
    s.hostRead addr size = { s with reply := some (s.readTarget target) } := by
  simp [State.hostRead, h.reaches, h.not_refused]

theorem hostWrite_of_accepts {t : State} (h : s.Accepts addr size target) (hw : s.writeTarget data target = some t) :
    s.hostWrite addr size data = { t with reply := none } := by
  simp [State.hostWrite, h.reaches, h.not_refused, hw]

/-- A read that is not accepted is refused (20_memory.md R79). -/
theorem hostRead_of_not_accepts (h : ∀ target, ¬ s.Accepts addr size target) :
    s.hostRead addr size = s.refuseRead := by
  unfold State.hostRead
  split
  · rfl
  · next target ht =>
    split
    · rfl
    · next hd => exact absurd ⟨ht, by simpa using hd⟩ (h target)

/-- A host write is refused, or it is the write of an accepted target (20_memory.md R79, R81). -/
theorem hostWrite_accepts_or_refused (s : State) (addr : BitVec 14) (size : AccessSize) (data : Word) :
    s.hostWrite addr size data = s.refuseWrite ∨
      ∃ target t, s.Accepts addr size target ∧ s.writeTarget data target = some t ∧
        s.hostWrite addr size data = { t with reply := none } := by
  by_cases h : ∃ target t, s.Accepts addr size target ∧ s.writeTarget data target = some t
  · obtain ⟨target, t, ha, hw⟩ := h
    exact .inr ⟨target, t, ha, hw, hostWrite_of_accepts ha hw⟩
  · left
    unfold State.hostWrite
    split
    · rfl
    · next target ht =>
      split
      · rfl
      · next hd =>
        split
        · rfl
        · next t hw => exact absurd ⟨target, t, ⟨ht, by simpa using hd⟩, hw⟩ h

/-! ## The step of an access -/

theorem step_of_hostRead (h : HostMoves s (.read addr size) rest) :
    step s = .next (State.hostRead { s with turns := rest } addr size) := by
  rw [step_of_hostMoves h, State.hostAccess, if_pos h.running]

theorem step_of_hostWrite (h : HostMoves s (.write addr size data) rest) :
    step s = .next (State.hostWrite { s with turns := rest } addr size data) := by
  rw [step_of_hostMoves h, State.hostAccess, if_pos h.running]

/-- The window does not look at the turns still to come. -/
theorem accepts_with_turns : State.Accepts { s with turns := rest } addr size target ↔ s.Accepts addr size target :=
  ⟨fun ⟨ht, ho⟩ => ⟨ht, ho⟩, fun ⟨ht, ho⟩ => ⟨ht, ho⟩⟩

theorem readTarget_with_turns (s : State) (rest : List Turn) (target : Target) :
    State.readTarget { s with turns := rest } target = s.readTarget target := by
  cases target <;> rfl

/-- An accepted read returns what stands there and changes nothing else (20_memory.md R81). -/
theorem step_of_accepted_read (h : HostMoves s (.read addr size) rest) (ha : s.Accepts addr size target) :
    step s = .next { s with reply := some (s.readTarget target), turns := rest } := by
  rw [step_of_hostRead h, hostRead_of_accepts (accepts_with_turns.2 ha), readTarget_with_turns]

theorem step_of_refused_read (h : HostMoves s (.read addr size) rest) (hn : ∀ target, ¬ s.Accepts addr size target) :
    step s = .next { s with accerr := true, reply := some 0, turns := rest } := by
  rw [step_of_hostRead h, hostRead_of_not_accepts fun target ha => hn target (accepts_with_turns.1 ha)]
  rfl

theorem step_of_accepted_write {t : State} (h : HostMoves s (.write addr size data) rest)
    (ha : s.Accepts addr size target) (hw : State.writeTarget { s with turns := rest } data target = some t) :
    step s = .next { t with reply := none } := by
  rw [step_of_hostWrite h, hostWrite_of_accepts (accepts_with_turns.2 ha) hw]

/-- In a well-formed build an accepted access is 32 bits wide, at the offset of a target of the build, and made while
IDLE if that offset lies in the data windows. -/
theorem accepts_iff (hwf : s.cfg.wellFormed = true) :
    s.Accepts addr size target ↔
      (size = .bits32 ∧ target.Present s.cfg ∧ addr.toNat = target.offset) ∧
        (0x1000 ≤ addr.toNat → s.idle = true) := by
  constructor
  · rintro ⟨ht, ho⟩
    obtain ⟨hsize, hp, haddr⟩ := accessTarget_sound ht
    exact ⟨⟨hsize, hp, haddr⟩, fun hge => ho ((isData_iff hwf hp).2 (haddr ▸ hge))⟩
  · rintro ⟨⟨hsize, hp, haddr⟩, ho⟩
    exact ⟨(accessTarget_eq_some_iff hwf).2 ⟨hsize, hp, haddr⟩, fun hd => ho (haddr ▸ (isData_iff hwf hp).1 hd)⟩

/-- An access outside the rules R72 to R74 and R80 is not accepted (20_memory.md R79). -/
theorem not_accepts_of_refused (hwf : s.cfg.wellFormed = true)
    (h : size ≠ .bits32 ∨ addr.toNat % 4 ≠ 0 ∨ ¬ MappedOffset s.cfg addr.toNat ∨
      (s.idle = false ∧ 0x1000 ≤ addr.toNat)) :
    ¬ s.Accepts addr size target := by
  rw [accepts_iff hwf]
  rintro ⟨⟨hsize, hp, haddr⟩, hopen⟩
  obtain hs | ha | hm | ⟨hidle, hge⟩ := h
  · exact hs hsize
  · exact ha (haddr ▸ target.offset_mod_four)
  · exact hm (mappedOffset_iff.2 ⟨target, hp, haddr⟩)
  · rw [hopen hge] at hidle
    cases hidle

/-! ## What takes a write -/

/-- The targets that take a write stand at the writable offsets (20_memory.md R79, R81). -/
theorem writableOffset_of_writeTarget {c : Cfg} {t : State} (hw : s.writeTarget data target = some t)
    (hp : target.Present c) : WritableOffset c target.offset := by
  cases target with
  | ctrl => exact .inl rfl
  | status => exact .inr (.inl rfl)
  | cmd => exact .inr (.inr (.inl rfl))
  | xword i j => exact .inr (.inr (.inr ⟨i, j, i.isLt, hp, rfl⟩))
  | _ => cases hw

/-- Only a soft reset writes the F file (20_memory.md R77). -/
theorem writeTarget_f {t : State} (hw : s.writeTarget data target = some t) :
    t.f = s.f ∨ (target = .ctrl ∧ data.getLsbD 0 = true) := by
  cases target with
  | ctrl =>
    cases hw
    cases hsrst : data.getLsbD 0 with
    | true => exact .inr ⟨rfl, rfl⟩
    | false => exact .inl (by rw [writeCtrl_of_no_srst hsrst])
  | status =>
    cases hw
    exact .inl rfl
  | cmd =>
    cases hw
    obtain hsame | ⟨-, -, hqueued⟩ := writeCmd_cases s data
    · exact .inl hsame.f
    · exact .inl (by rw [hqueued])
  | xword i j =>
    cases hw
    exact .inl rfl
  | _ => cases hw

theorem hostWrite_f (s : State) (addr : BitVec 14) (size : AccessSize) (data : Word) :
    (s.hostWrite addr size data).f = s.f ∨ (addr = 0x010 ∧ size = .bits32 ∧ data.getLsbD 0 = true) := by
  obtain href | ⟨target, t, hacc, hw, he⟩ := hostWrite_accepts_or_refused s addr size data
  · exact .inl (by rw [href, refuseWrite_f])
  · obtain hf | ⟨rfl, hsrst⟩ := writeTarget_f hw
    · exact .inl (by rw [he, hf])
    · obtain ⟨hsize, -, haddr⟩ := accessTarget_sound hacc.reaches
      exact .inr ⟨BitVec.eq_of_toNat_eq haddr, hsize, hsrst⟩

/-- What a host access can do to the F file: nothing, unless it is a soft reset. -/
theorem hostAccess_f (s : State) (a : Access) :
    (s.hostAccess a).f = s.f ∨ ∃ data, a = .write 0x010 .bits32 data ∧ data.getLsbD 0 = true := by
  unfold State.hostAccess
  split
  · cases a with
    | read addr size => exact .inl (hostRead_sameCore s addr size).f
    | write addr size data =>
      obtain hf | ⟨rfl, rfl, hsrst⟩ := hostWrite_f s addr size data
      · exact .inl hf
      · exact .inr ⟨data, rfl, hsrst⟩
  · exact .inl rfl

/-- A write of no writable target is refused (20_memory.md R79). -/
theorem step_of_refused_write (h : HostMoves s (.write addr size data) rest)
    (hn : ∀ target, s.Accepts addr size target → ¬ WritableOffset s.cfg addr.toNat) :
    step s = .next { s with accerr := true, reply := none, turns := rest } := by
  rw [step_of_hostWrite h]
  obtain href | ⟨target, t, ha, hw, -⟩ := hostWrite_accepts_or_refused { s with turns := rest } addr size data
  · rw [href]
    rfl
  · obtain ⟨-, hp, haddr⟩ := accessTarget_sound ha.reaches
    exact absurd (haddr ▸ writableOffset_of_writeTarget hw hp) (hn target (accepts_with_turns.1 ha))

/-- A write to CMD takes effect in every engine state (20_memory.md R82). -/
theorem step_of_cmdWrite (h : HostMoves s (.write 0x028 .bits32 data) rest) :
    step s = .next { State.writeCmd { s with turns := rest } data with reply := none } :=
  step_of_registerWrite h rfl rfl rfl

theorem writeCmd_of_err (he : s.error.err = true) : s.writeCmd data = { s with cmddrop := true } := if_pos he

theorem writeCmd_of_full (he : s.error.err = false) (hfull : s.fifo.length = s.cfg.fifoDepth) :
    s.writeCmd data = { s with ovf := true } := by
  simp [State.writeCmd, he, hfull]

theorem writeCmd_of_room (he : s.error.err = false) (hroom : s.fifo.length ≠ s.cfg.fifoDepth) :
    s.writeCmd data = { s with fifo := s.fifo ++ [data] } := by
  simp [State.writeCmd, he, hroom]

end

end Sys2Proof.Machine
end

section
/-! SUPPORT for the data windows, bit by bit, and PROOFS of the statements on the host window (20_memory.md). -/

namespace Sys2Proof.Machine

/-! ## The words of an integer -/

section

variable (c : Cfg)

/-- Word `j` shows the bits from `32 * j` on that lie below `GW` (20_memory.md R75 to R78). -/
theorem wordOf_getLsbD (v j : Nat) {b : Nat} (hb : b < 32) :
    (wordOf c v j).getLsbD b = (decide (32 * j + b < c.gw) && v.testBit (32 * j + b)) := by
  rw [wordOf, BitVec.getLsbD_ofNat, decide_eq_true hb, Bool.true_and, Nat.testBit_div_two_pow, Nat.add_comm b, Cfg.r,
    Nat.testBit_mod_two_pow]

/-- A number with the `w` bits from `lo` on replaced by those of `d`, put together from its three parts. -/
theorem testBit_replaceBits (v lo : Nat) {w d : Nat} (hd : d < 2 ^ w) (k : Nat) :
    (v % 2 ^ lo + d * 2 ^ lo + v / 2 ^ (lo + w) * 2 ^ (lo + w)).testBit k =
      if lo ≤ k ∧ k < lo + w then d.testBit (k - lo) else v.testBit k := by
  have hlow : v % 2 ^ lo < 2 ^ lo := Nat.mod_lt _ (Nat.two_pow_pos _)
  have hparts : v % 2 ^ lo + d * 2 ^ lo + v / 2 ^ (lo + w) * 2 ^ (lo + w) =
      2 ^ lo * (2 ^ w * (v / 2 ^ (lo + w)) + d) + v % 2 ^ lo := by
    ring
  rw [hparts, Nat.testBit_two_pow_mul_add _ hlow, Nat.testBit_two_pow_mul_add _ hd]
  obtain hbelow | hin | habove : k < lo ∨ (lo ≤ k ∧ k < lo + w) ∨ lo + w ≤ k := by omega
  · rw [if_pos hbelow, if_neg (by omega), Nat.testBit_mod_two_pow, decide_eq_true hbelow, Bool.true_and]
  · rw [if_neg (by omega), if_pos (by omega), if_pos hin]
  · rw [if_neg (by omega), if_neg (by omega), if_neg (by omega), Nat.testBit_div_two_pow,
      show k - lo - w + (lo + w) = k by omega]

/-- Replacing word `j` takes the bits of that word from the data and keeps the others, below `GW`
(20_memory.md R76). -/
theorem testBit_replaceWord (v j : Nat) (data : Word) (k : Nat) :
    (replaceWord c v j data).testBit k =
      (decide (k < c.gw) && if k / 32 = j then data.getLsbD (k % 32) else v.testBit k) := by
  rw [replaceWord, Cfg.r, Nat.testBit_mod_two_pow, Nat.mul_succ, testBit_replaceBits v (32 * j) data.isLt]
  congr 1
  by_cases hword : k / 32 = j
  · rw [if_pos (by omega), if_pos hword, show k - 32 * j = k % 32 by omega, BitVec.testBit_toNat]
  · rw [if_neg (by omega), if_neg hword]

end

end Sys2Proof.Machine

namespace Sys2Proof.Proofs

open Sys2Proof Sys2Proof.Machine

/-- Settles O18: a host write that reaches CTRL with SRST is the one access that writes the F file. -/
theorem hostNeverWritesF : Obligations.HostNeverWritesF := by
  intro s t a rest hturn hstep hf
  have haccess : t = State.hostAccess { s with turns := rest } a := by
    obtain ⟨_, hother, -⟩ | ⟨_, _, hhost, ht⟩ | ⟨_, _, hother, -⟩ := step_cases hstep
    · simp [hturn] at hother
    · rw [hturn] at hhost
      cases hhost
      exact ht
    · simp [hturn] at hother
  rw [haccess] at hf
  exact (hostAccess_f { s with turns := rest } a).resolve_left hf

/-- Settles O24: every row of the map is a target of the build with its offset. -/
theorem addressMapIsThatOfR74 : Obligations.AddressMapIsThatOfR74 := by
  intro c addr size hwf
  refine ⟨?_, fun hsize => ?_⟩
  · rw [Option.isSome_iff_exists, mappedOffset_iff]
    constructor
    · rintro ⟨target, ht⟩
      obtain ⟨hsize, hp, haddr⟩ := accessTarget_sound ht
      exact ⟨hsize, haddr ▸ target.offset_mod_four, target, hp, haddr⟩
    · rintro ⟨hsize, -, target, hp, haddr⟩
      exact ⟨target, (accessTarget_eq_some_iff hwf).2 ⟨hsize, hp, haddr⟩⟩
  · have reached (target : Target) (hp : target.Present c) (haddr : addr.toNat = target.offset) :
        accessTarget c addr size = some target := (accessTarget_eq_some_iff hwf).2 ⟨hsize, hp, haddr⟩
    refine ⟨fun row hrow => ?_, fun j => reached (.mod j), fun i j => reached (.xword i j),
      fun i j => reached (.fword i j), fun i => reached (.fexcess i) trivial⟩
    have hlisted : row.2.Present c ∧ row.1 = row.2.offset := by fin_cases hrow <;> exact ⟨trivial, rfl⟩
    obtain ⟨hp, ho⟩ := hlisted
    exact fun haddr => reached row.2 hp (haddr.trans ho)

/-- Settles O25: an access with one of the causes is not accepted, or reaches nothing that takes a write. -/
theorem refusedAccessOnlySetsAccerr : Obligations.RefusedAccessOnlySetsAccerr := by
  refine ⟨fun s rest addr size h hcause => step_of_refused_read h fun target => ?_,
    fun s rest addr size data h hcause => step_of_refused_write h fun target ha hwritable => ?_⟩
  · refine not_accepts_of_refused h.build ?_
    obtain hs | ha | hm | ⟨hidle, hge, -⟩ := hcause
    exacts [.inl hs, .inr (.inl ha), .inr (.inr (.inl hm)), .inr (.inr (.inr ⟨hidle, hge⟩))]
  · refine not_accepts_of_refused h.build ?_ ha
    obtain hs | ha | hn | ⟨hidle, hge, -⟩ := hcause
    exacts [.inl hs, .inr (.inl ha), absurd hwritable hn, .inr (.inr (.inr ⟨hidle, hge⟩))]

/-- Settles O26: a read is accepted or refused. -/
theorem readsHaveNoSideEffect : Obligations.ReadsHaveNoSideEffect := by
  intro s rest addr size h
  refine ⟨fun target ht hopen => step_of_accepted_read h ?_,
    fun hnone => step_of_refused_read h fun target ha => ?_, ?_⟩
  · exact (accepts_iff h.build).2 ⟨accessTarget_sound ht, fun hge => hopen.resolve_right (Nat.not_lt.2 hge)⟩
  · obtain hn | hclosed := hnone
    · rw [ha.reaches] at hn
      cases hn
    · exact not_accepts_of_refused h.build (.inr (.inr (.inr hclosed))) ha
  · by_cases hacc : ∃ target, s.Accepts addr size target
    · obtain ⟨target, ha⟩ := hacc
      exact ⟨_, .inl (step_of_accepted_read h ha)⟩
    · exact ⟨0, .inr ⟨rfl, step_of_refused_read h (not_exists.1 hacc)⟩⟩

/-- Settles O27, branch by branch. -/
theorem cmdWriteQueuesOrDrops : Obligations.CmdWriteQueuesOrDrops := by
  intro s rest v h
  refine ⟨fun he => ?_, fun he hfull => ?_, fun he hroom => ?_⟩
  · rw [step_of_cmdWrite h, writeCmd_of_err (s := { s with turns := rest }) he]
  · rw [step_of_cmdWrite h, writeCmd_of_full (s := { s with turns := rest }) he hfull]
  · rw [step_of_cmdWrite h, writeCmd_of_room (s := { s with turns := rest }) he hroom]

/-- Settles O32: the access is accepted, and the new value is the old one with the word replaced. -/
theorem xWindowWriteReplacesOneWord : Obligations.XWindowWriteReplacesOneWord := by
  intro s rest addr i j data h hidle hj haddr
  have ha : s.Accepts addr .bits32 (.xword i j) := (accepts_iff h.build).2 ⟨⟨rfl, hj, haddr⟩, fun _ => hidle⟩
  exact ⟨_, step_of_accepted_write h ha rfl, testBit_replaceWord s.cfg (s.xval i) j data⟩

/-- Settles O33: each read is accepted, and returns a word of the integer, or the excess. -/
theorem windowReadsReturnTheWord : Obligations.WindowReadsReturnTheWord := by
  intro s rest addr i j h hj
  have answered {target : Target} (hp : target.Present s.cfg) (haddr : addr.toNat = target.offset)
      (hopen : 0x1000 ≤ addr.toNat → s.idle = true) :
      step s = .next { s with reply := some (s.readTarget target), turns := rest } :=
    step_of_accepted_read h ((accepts_iff h.build).2 ⟨⟨rfl, hp, haddr⟩, hopen⟩)
  have hxw := xw_le h.build
  refine ⟨fun haddr => ?_, fun hidle haddr => ?_, fun hidle haddr => ?_, fun hidle haddr he => ?_⟩
  · exact ⟨_, answered (target := .mod j) hj haddr (by omega), fun b => wordOf_getLsbD s.cfg _ j⟩
  · exact ⟨_, answered (target := .xword i j) hj haddr fun _ => hidle, fun b => wordOf_getLsbD s.cfg _ j⟩
  · exact ⟨_, answered (target := .fword i j) hj haddr fun _ => hidle, fun b => wordOf_getLsbD s.cfg _ j⟩
  · exact ⟨_, answered (target := .fexcess i) trivial haddr fun _ => hidle, Nat.mod_eq_of_lt he⟩

end Sys2Proof.Proofs
end

section
/-! SUPPORT for the encoding (30_encoding.md). A word is its five fields; a word matches a row of the opcode map exactly
when it is the encoding of the command that its fields build; and PROOFS of the statements on the decoder and the
encoder. -/

namespace Sys2Proof

/-! ## A word and its fields (30_encoding.md R101) -/

/-- The bits of field OP. -/
abbrev opBits (w : Word) : BitVec 6 := w.extractLsb' 26 6

/-- The bits of field D. -/
abbrev dBits (w : Word) : BitVec 4 := w.extractLsb' 22 4

/-- The bits of field A. -/
abbrev aBits (w : Word) : BitVec 4 := w.extractLsb' 18 4

/-- The bits of field B. -/
abbrev bBits (w : Word) : BitVec 4 := w.extractLsb' 14 4

/-- The bits of the immediate field. -/
abbrev immBits (w : Word) : BitVec 14 := w.extractLsb' 0 14

section

variable (op : BitVec 6) (d a b : BitVec 4) (imm : BitVec 14)

theorem dBits_wordOfFields : dBits (wordOfFields op d a b imm) = d := by
  rw [wordOfFields, dBits, BitVec.extractLsb'_append_eq_of_le (by decide),
    BitVec.extractLsb'_append_eq_of_le (by decide), BitVec.extractLsb'_append_eq_of_le (by decide)]
  exact BitVec.extractLsb'_append_eq_right

theorem aBits_wordOfFields : aBits (wordOfFields op d a b imm) = a := by
  rw [wordOfFields, aBits, BitVec.extractLsb'_append_eq_of_le (by decide),
    BitVec.extractLsb'_append_eq_of_le (by decide)]
  exact BitVec.extractLsb'_append_eq_right

theorem bBits_wordOfFields : bBits (wordOfFields op d a b imm) = b := by
  rw [wordOfFields, bBits, BitVec.extractLsb'_append_eq_of_le (by decide)]
  exact BitVec.extractLsb'_append_eq_right

theorem immBits_wordOfFields : immBits (wordOfFields op d a b imm) = imm := BitVec.extractLsb'_append_eq_right

theorem opBits_wordOfFields : opBits (wordOfFields op d a b imm) = op :=
  BitVec.eq_of_toNat_eq (Laws.fieldOp_wordOfFields op d a b imm)

end

/-- A word is laid out from its own fields. -/
theorem wordOfFields_self (w : Word) : wordOfFields (opBits w) (dBits w) (aBits w) (bBits w) (immBits w) = w := by
  have hd : opBits w ++ dBits w = w.extractLsb' 22 10 := BitVec.extractLsb'_append_extractLsb'_eq_extractLsb' rfl
  have ha : w.extractLsb' 22 10 ++ aBits w = w.extractLsb' 18 14 :=
    BitVec.extractLsb'_append_extractLsb'_eq_extractLsb' rfl
  have hb : w.extractLsb' 18 14 ++ bBits w = w.extractLsb' 14 18 :=
    BitVec.extractLsb'_append_extractLsb'_eq_extractLsb' rfl
  have himm : w.extractLsb' 14 18 ++ immBits w = w.extractLsb' 0 32 :=
    BitVec.extractLsb'_append_extractLsb'_eq_extractLsb' rfl
  rw [wordOfFields, hd, ha, hb, himm, BitVec.extractLsb'_eq_self]

theorem word_eq_iff {v w : Word} :
    v = w ↔ opBits v = opBits w ∧ dBits v = dBits w ∧ aBits v = aBits w ∧ bBits v = bBits w ∧ immBits v = immBits w := by
  refine ⟨by rintro rfl; simp, fun ⟨hop, hd, ha, hb, himm⟩ => ?_⟩
  rw [← wordOfFields_self v, ← wordOfFields_self w, hop, hd, ha, hb, himm]

/-- A word is its opcode bits and the 26 bits below them. -/
theorem word_eq_iff_op_and_rest {v w : Word} :
    v = w ↔ opBits v = opBits w ∧ v.extractLsb' 0 26 = w.extractLsb' 0 26 := by
  have join (u : Word) : opBits u ++ u.extractLsb' 0 26 = u :=
    (BitVec.extractLsb'_append_extractLsb'_eq_extractLsb' rfl).trans BitVec.extractLsb'_eq_self
  refine ⟨by rintro rfl; simp, fun ⟨hop, hrest⟩ => ?_⟩
  rw [← join v, ← join w, hop, hrest]

/-! ## The operands that the fields hold (30_encoding.md R103) -/

/-- A field read as an index and written back is the field. -/
theorem indexBits_toFin (x : BitVec 4) : indexBits x.toFin = x := BitVec.ofNat_toNat 4 x

/-- An index written to a field is read back. -/
theorem toFin_indexBits (i : Fin 16) : (indexBits i).toFin = i := Fin.ext (Nat.mod_eq_of_lt i.isLt)

/-- The scalar written to its byte is read back when it fits. -/
theorem toInt_ofInt_of_scalarFits {k : Int} (h : scalarFits k = true) : (BitVec.ofInt 8 k).toInt = k := by
  obtain ⟨hle, hlt⟩ : -128 ≤ k ∧ k ≤ 127 := by simpa [scalarFits] using h
  exact BitVec.toInt_ofInt_eq_self (by decide) hle (by omega)

/-- Bits 1 and 0 of a word are `S` and `C`. -/
theorem ofBool_fieldS_append_fieldC (w : Word) :
    BitVec.ofBool (fieldS w) ++ BitVec.ofBool (fieldC w) = w.extractLsb' 0 2 := by
  refine BitVec.eq_of_getLsbD_eq fun i hi => ?_
  obtain rfl | rfl : i = 0 ∨ i = 1 := by omega
  · rw [BitVec.getLsbD_append]; simp [fieldC]
  · rw [BitVec.getLsbD_append]; simp [fieldS]

/-- The pair `S = 1, C = 1`, as the test of 30_encoding.md R107 on bits 1 and 0. -/
theorem extract_eq_three_iff (w : Word) : w.extractLsb' 0 2 = 3 ↔ fieldS w = true ∧ fieldC w = true := by
  rw [← ofBool_fieldS_append_fieldC]
  cases fieldS w <;> cases fieldC w <;> decide

/-! ## A row of the opcode map and the encoding of what a word builds -/

/-- A field that a command does not use is written as 0, and its row masks all of it. -/
theorem unused_field_iff {n : Nat} (x : BitVec n) : 0 = x ↔ x &&& BitVec.allOnes n = 0 := by
  rw [BitVec.and_allOnes, eq_comm]

/-- A field that a command uses is written back as it was read, and its row masks none of it. -/
theorem used_field_iff {n : Nat} {x y : BitVec n} (h : y = x) : y = x ↔ x &&& 0 = 0 := by simp [h]

/-- A subfield of the low `n` immediate bits is written back as it was read, and its row masks the bits above it. -/
theorem low_field_iff {w : Word} {n : Nat} {y : BitVec n} (hn : n ≤ 14) (h : y = w.extractLsb' 0 n) :
    y.setWidth 14 = immBits w ↔ immBits w &&& (BitVec.allOnes 14 <<< n) = 0 := by
  subst h
  simp only [BitVec.eq_of_getLsbD_eq_iff, BitVec.getLsbD_setWidth, BitVec.getLsbD_extractLsb', BitVec.getLsbD_and,
    BitVec.getLsbD_shiftLeft, BitVec.getLsbD_allOnes]
  refine forall₂_congr fun i hi => ?_
  by_cases h : i < n
  · simp [h, hi]
  · simp [h, hi, show i - n < 14 by omega]

section

variable (o : Opcode) (w : Word)

theorem opcode_build : (o.build w).opcode = o := by cases o <;> rfl

theorem op_build_eq_iff : o.row.op = opBits w ↔ opBits w &&& opBits o.row.mask = opBits o.row.pattern := by
  have hmask : opBits o.row.mask = BitVec.allOnes 6 := by cases o <;> rfl
  have hpattern : opBits o.row.pattern = o.row.op := by cases o <;> rfl
  rw [hmask, hpattern, BitVec.and_allOnes, eq_comm]

theorem bitsD_build_eq_iff :
    (o.build w).bitsD = dBits w ↔ dBits w &&& dBits o.row.mask = dBits o.row.pattern := by
  cases o with
  | nop | qr | isz | equ => exact unused_field_iff _
  | _ => exact used_field_iff (indexBits_toFin _)

theorem bitsA_build_eq_iff :
    (o.build w).bitsA = aBits w ↔ aBits w &&& aBits o.row.mask = aBits o.row.pattern := by
  cases o with
  | nop | zero | one | ldc => exact unused_field_iff _
  | _ => exact used_field_iff (indexBits_toFin _)

theorem bitsB_build_eq_iff :
    (o.build w).bitsB = bBits w ↔ bBits w &&& bBits o.row.mask = bBits o.row.pattern := by
  cases o with
  | rdd | add | sub | mul | pow | equ => exact used_field_iff (indexBits_toFin _)
  | _ => exact unused_field_iff _

theorem imm_build_eq_iff :
    (o.build w).imm = immBits w ↔ immBits w &&& immBits o.row.mask = immBits o.row.pattern := by
  cases o with
  | ldc => exact low_field_iff (by decide) (indexBits_toFin _)
  | imul => exact low_field_iff (n := 8) (by decide) BitVec.ofInt_toInt
  | cswap | cmov => exact low_field_iff (by decide) (ofBool_fieldS_append_fieldC w)
  | _ => exact unused_field_iff _

/-- A word is the encoding of the command that its fields build exactly when it matches the row (R105). -/
theorem encode_build_eq_iff : encode (o.build w) = w ↔ w &&& o.row.mask = o.row.pattern := by
  rw [word_eq_iff, word_eq_iff (w := o.row.pattern), encode, opBits_wordOfFields, dBits_wordOfFields,
    aBits_wordOfFields, bBits_wordOfFields, immBits_wordOfFields, opcode_build, op_build_eq_iff,
    bitsD_build_eq_iff, bitsA_build_eq_iff, bitsB_build_eq_iff, imm_build_eq_iff]
  simp only [BitVec.extractLsb'_and]

end

/-! ## The operands of an encoding -/

section

variable (i : Instr)

theorem fieldD_encode : fieldD (encode i) = i.bitsD.toFin := congrArg BitVec.toFin (dBits_wordOfFields ..)

theorem fieldA_encode : fieldA (encode i) = i.bitsA.toFin := congrArg BitVec.toFin (aBits_wordOfFields ..)

theorem fieldB_encode : fieldB (encode i) = i.bitsB.toFin := congrArg BitVec.toFin (bBits_wordOfFields ..)

end

/-- A subfield written to the low immediate bits is read back. -/
theorem low_field_encode {i : Instr} {n : Nat} {y : BitVec n} (hn : n ≤ 14) (h : i.imm = y.setWidth 14) :
    (encode i).extractLsb' 0 n = y := by
  have himm : immBits (encode i) = y.setWidth 14 := (immBits_wordOfFields ..).trans h
  have hlow : (encode i).extractLsb' 0 n = (immBits (encode i)).setWidth n :=
    BitVec.eq_of_getLsbD_eq fun j hj => by simp [hj, show j < 14 by omega]
  rw [hlow, himm, BitVec.setWidth_setWidth_of_le _ hn, BitVec.setWidth_eq]

theorem ofBool_append_ofBool_inj : ∀ {sel c sel' c' : Bool},
    BitVec.ofBool sel ++ BitVec.ofBool c = BitVec.ofBool sel' ++ BitVec.ofBool c' → sel = sel' ∧ c = c' := by decide

theorem fieldS_fieldC_encode {i : Instr} {sel c : Bool} (h : i.imm = conditionImm sel c) :
    fieldS (encode i) = sel ∧ fieldC (encode i) = c :=
  ofBool_append_ofBool_inj ((ofBool_fieldS_append_fieldC _).trans (low_field_encode (by decide) h))

/-- The fields of the encoding of a well-formed command build the command. -/
theorem build_encode {i : Instr} (h : i.wellFormed = true) : i.opcode.build (encode i) = i := by
  cases i with
  | ldc d k =>
    have hk : fieldK (encode (.ldc d k)) = (indexBits k).toFin :=
      congrArg BitVec.toFin (low_field_encode (by decide) rfl)
    simp only [Instr.opcode, Opcode.build, fieldD_encode, Instr.bitsD, hk, toFin_indexBits]
  | imul d a k =>
    have hk : fieldScalar (encode (.imul d a k)) = (BitVec.ofInt 8 k).toInt :=
      congrArg BitVec.toInt (low_field_encode (by decide) rfl)
    simp only [Instr.opcode, Opcode.build, fieldD_encode, fieldA_encode, Instr.bitsD, Instr.bitsA, hk,
      toFin_indexBits, toInt_ofInt_of_scalarFits h]
  | cswap d a sel c =>
    obtain ⟨hs, hc⟩ := fieldS_fieldC_encode (i := .cswap d a sel c) rfl
    simp only [Instr.opcode, Opcode.build, fieldD_encode, fieldA_encode, Instr.bitsD, Instr.bitsA, hs, hc,
      toFin_indexBits]
  | cmov d a sel c =>
    obtain ⟨hs, hc⟩ := fieldS_fieldC_encode (i := .cmov d a sel c) rfl
    simp only [Instr.opcode, Opcode.build, fieldD_encode, fieldA_encode, Instr.bitsD, Instr.bitsA, hs, hc,
      toFin_indexBits]
  | _ =>
    simp only [Instr.opcode, Opcode.build, fieldD_encode, fieldA_encode, fieldB_encode, Instr.bitsD, Instr.bitsA,
      Instr.bitsB, toFin_indexBits]

/-! ## The decoder (30_encoding.md R105 to R107) -/

theorem opcodeOfField_eq_some_iff {n : Nat} {o : Opcode} : opcodeOfField n = some o ↔ n = o.row.op.toNat := by
  constructor
  · intro h
    unfold opcodeOfField at h
    split at h <;> cases h <;> rfl
  · rintro rfl
    cases o <;> rfl

theorem opcodeOfField_eq_none_iff {n : Nat} : opcodeOfField n = none ↔ 0x18 ≤ n := by
  constructor
  · intro h
    by_contra hn
    have hlt : n < 0x18 := by omega
    interval_cases n <;> cases h
  · intro hn
    by_contra h
    obtain ⟨o, ho⟩ := Option.ne_none_iff_exists'.1 h
    have hlt : o.row.op.toNat < 0x18 := by cases o <;> decide
    rw [opcodeOfField_eq_some_iff] at ho
    omega

section

variable {w : Word} {o : Opcode}

/-- Mask and match say that the OP field names the row and that the bits the format requires to be 0 are 0 (R102,
R105). -/
theorem row_matches_iff :
    w &&& o.row.mask = o.row.pattern ↔ opcodeOfField (fieldOp w) = some o ∧ w &&& o.row.format.mustBeZero = 0 := by
  have hmask : o.row.mask.extractLsb' 0 26 = o.row.format.mustBeZero.extractLsb' 0 26 := by cases o <;> rfl
  have hpattern : o.row.pattern.extractLsb' 0 26 = (0 : Word).extractLsb' 0 26 := by cases o <;> rfl
  have hformat : opBits o.row.format.mustBeZero = 0 := by cases o <;> rfl
  have hop : opcodeOfField (fieldOp w) = some o ↔ o.row.op = opBits w := by
    rw [opcodeOfField_eq_some_iff, eq_comm, BitVec.toNat_eq, fieldOp]
  have hzero : opBits w &&& 0 = opBits 0 := BitVec.and_zero
  have hand (m : Word) : opBits (w &&& m) = opBits w &&& opBits m := BitVec.extractLsb'_and
  rw [word_eq_iff_op_and_rest, word_eq_iff_op_and_rest (w := 0), hop, op_build_eq_iff, hand, hand,
    BitVec.extractLsb'_and, BitVec.extractLsb'_and, hmask, hpattern, hformat, and_iff_right hzero]

/-- The reserved pair is an operand of CSWAP and CMOV, and they are not well formed with it (R103, R106). -/
theorem extract_ne_of_build_wellFormed (h : (o.build w).wellFormed = true) (ho : o = .cswap ∨ o = .cmov) :
    w.extractLsb' 0 2 ≠ 3 := by
  have hpair : conditionAllowed (fieldS w) (fieldC w) = true := by obtain rfl | rfl := ho <;> exact h
  rw [Ne, extract_eq_three_iff]
  rintro ⟨hs, hc⟩
  simp [conditionAllowed, hs, hc] at hpair

/-- What the decoder does with a word whose OP field names an opcode. -/
theorem decode_of_opcode (h : opcodeOfField (fieldOp w) = some o) :
    decode w =
      if w &&& o.row.mask ≠ o.row.pattern then .error .mustBeZeroBit
      else if (o = .cswap ∨ o = .cmov) ∧ w.extractLsb' 0 2 = 3 then .error .reservedCondition
      else .ok (o.build w) := by
  rw [decode, h]

theorem decode_eq_ok_iff {i : Instr} :
    decode w = .ok i ↔
      ∃ o : Opcode, w &&& o.row.mask = o.row.pattern ∧ (o = .cswap ∨ o = .cmov → w.extractLsb' 0 2 ≠ 3) ∧
        o.build w = i := by
  constructor
  · intro h
    cases ho : opcodeOfField (fieldOp w) with
    | none => simp [decode, ho] at h
    | some o =>
      rw [decode_of_opcode ho] at h
      split at h
      · cases h
      · split at h
        · cases h
        · next hmatch hpair =>
          exact ⟨o, not_not.1 hmatch, fun hc h3 => hpair ⟨hc, h3⟩, Except.ok.inj h⟩
  · rintro ⟨o, hmatch, hpair, rfl⟩
    rw [decode_of_opcode (row_matches_iff.1 hmatch).1, if_neg (not_not.2 hmatch), if_neg fun h => hpair h.1 h.2]

/-- The words that an opcode refuses: a must-be-zero bit is set, or the pair is the reserved one. -/
theorem exists_decode_error_iff (h : opcodeOfField (fieldOp w) = some o) :
    (∃ e, decode w = .error e) ↔
      w &&& o.row.format.mustBeZero ≠ 0 ∨ ((o = .cswap ∨ o = .cmov) ∧ w.extractLsb' 0 2 = 3) := by
  have hmatch : w &&& o.row.mask = o.row.pattern ↔ w &&& o.row.format.mustBeZero = 0 :=
    row_matches_iff.trans (and_iff_right h)
  rw [decode_of_opcode h]
  by_cases hbits : w &&& o.row.format.mustBeZero = 0
  · rw [if_neg (not_not.2 (hmatch.2 hbits))]
    by_cases hpair : (o = .cswap ∨ o = .cmov) ∧ w.extractLsb' 0 2 = 3
    · rw [if_pos hpair]
      exact iff_of_true ⟨_, rfl⟩ (.inr hpair)
    · rw [if_neg hpair]
      exact iff_of_false (by simp) (not_or.2 ⟨not_not.2 hbits, hpair⟩)
  · rw [if_pos (mt hmatch.1 hbits)]
    exact iff_of_true ⟨_, rfl⟩ (.inl hbits)

end

end Sys2Proof

namespace Sys2Proof.Proofs

open Sys2Proof Sys2Proof.Machine

/-- Settles O3: a legal word matches the row of its opcode, so it is the encoding of what its fields build. -/
theorem encodeOfDecodeIsTheWord : Obligations.EncodeOfDecodeIsTheWord := by
  intro w i h
  obtain ⟨o, hmatch, -, rfl⟩ := decode_eq_ok_iff.1 h
  exact ⟨wellFormed_of_decode h, (encode_build_eq_iff o w).2 hmatch⟩

/-- Settles O2: the fields of the encoding build the command, so the encoding matches the command's row. -/
theorem decodeOfEncodeIsTheCommand : Obligations.DecodeOfEncodeIsTheCommand := by
  intro i h
  have hbuild := build_encode h
  refine decode_eq_ok_iff.2 ⟨i.opcode, ?_, ?_, hbuild⟩
  · exact (encode_build_eq_iff i.opcode (encode i)).1 (congrArg encode hbuild)
  · exact extract_ne_of_build_wellFormed (by rwa [hbuild])

/-- Settles O4: a match fixes the OP field, and the OP field names one opcode. -/
theorem opcodeMapReadsEveryWord : Obligations.OpcodeMapReadsEveryWord := by
  refine ⟨fun w o => ⟨?_, fun ⟨hmatch, hpair⟩ => ?_⟩, fun w o₁ o₂ h₁ h₂ => ?_⟩
  · rintro ⟨i, hdecode, rfl⟩
    obtain ⟨o, hmatch, hpair, rfl⟩ := decode_eq_ok_iff.1 hdecode
    rw [opcode_build]
    exact ⟨hmatch, hpair⟩
  · exact ⟨o.build w, decode_eq_ok_iff.2 ⟨o, hmatch, hpair, rfl⟩, opcode_build o w⟩
  · have hname := (row_matches_iff.1 h₁).1
    rw [(row_matches_iff.1 h₂).1] at hname
    exact (Option.some.inj hname).symm

/-- Settles O5: either the OP field names no opcode, or the named opcode refuses the word. -/
theorem illegalWordsEnterError : Obligations.IllegalWordsEnterError := by
  refine ⟨fun w => ?_, fun s rest w e hmoves hw he => ?_⟩
  · cases ho : opcodeOfField (fieldOp w) with
    | none =>
      have hdecode : decode w = .error .reservedOpcode := by rw [decode, ho]
      exact iff_of_true ⟨_, hdecode⟩ (.inl (opcodeOfField_eq_none_iff.1 ho))
    | some o =>
      have hnamed : ¬ 0x18 ≤ fieldOp w := fun hge => by simp [opcodeOfField_eq_none_iff.2 hge] at ho
      have hpair : (o = .cswap ∨ o = .cmov) ↔ (fieldOp w = 0x16 ∨ fieldOp w = 0x17) := by
        rw [opcodeOfField_eq_some_iff.1 ho]
        cases o <;> decide
      rw [exists_decode_error_iff ho, hpair, extract_eq_three_iff, or_iff_right hnamed]
      simp
  · refine ⟨_, ?_, raise_entersError _ .illegal none⟩
    rw [step_of_inflight hmoves hw, executeWord, he]

end Sys2Proof.Proofs
end

section
/-! SUPPORT for the operands of a command (30_encoding.md R104, R108): every command checks its sources and then goes on
to writes of its destinations alone; and PROOFS of the statements on sources, destinations and worked encodings. -/

namespace Sys2Proof.Machine

/-- A state that differs from `s` in no register beside `ds`, and in the flag T only where `flag` allows it. -/
structure WritesWithin (ds : List RegName) (flag : Bool) (s t : State) : Prop where
  f : ∀ r : Fin 16, .f r ∉ ds → t.f[r] = s.f[r]
  x : ∀ r : Fin 16, .x r ∉ ds → t.x[r] = s.x[r]
  tFlag : flag = false → t.tFlag = s.tFlag

namespace WritesWithin

variable {ds : List RegName} {flag : Bool} {s t : State}

theorem refl : WritesWithin ds flag s s := ⟨fun _ _ => rfl, fun _ _ => rfl, fun _ => rfl⟩

theorem setF (h : WritesWithin ds flag s t) {d : FIdx} (hd : .f d ∈ ds) (a : FElem) :
    WritesWithin ds flag s (t.setF d a) where
  f r hr := (setF_read_other t a fun (he : r = d) => hr (he ▸ hd)).trans (h.f r hr)
  x := h.x
  tFlag := h.tFlag

theorem setX (h : WritesWithin ds flag s t) {d : XIdx} (hd : .x d ∈ ds) (v : Nat) :
    WritesWithin ds flag s (t.setX d v) where
  f := h.f
  x r hr := (setX_read_other t v fun (he : r = d) => hr (he ▸ hd)).trans (h.x r hr)
  tFlag := h.tFlag

theorem setT (h : WritesWithin ds true s t) (b : Bool) : WritesWithin ds true s (t.setT b) where
  f := h.f
  x := h.x
  tFlag := nofun

theorem complete (h : WritesWithin ds flag s t) : WritesWithin ds flag s t.complete := ⟨h.f, h.x, h.tFlag⟩

theorem raise (code : ErrCode) (o : Option RegName) : WritesWithin ds flag s (s.raise code o) :=
  ⟨fun _ _ => rfl, fun _ _ => rfl, fun _ => rfl⟩

theorem checked (h : WritesWithin ds flag s t) (srcs : List RegName) : WritesWithin ds flag s (s.checked srcs t) := by
  obtain ⟨-, he⟩ | ⟨r, -, he⟩ := checked_cases s srcs t <;> rw [he]
  · exact h
  · exact .raise _ _

/-- The one write of most commands. -/
theorem setF_complete (d : FIdx) (a : FElem) : WritesWithin [.f d] flag s (s.setF d a).complete :=
  (refl.setF (List.mem_singleton_self _) a).complete

theorem setX_complete (d : XIdx) (v : Nat) : WritesWithin [.x d] flag s (s.setX d v).complete :=
  (refl.setX (List.mem_singleton_self _) v).complete

/-- The two writes of CSWAP. -/
theorem setF_setF_complete (d a : FIdx) (u v : FElem) :
    WritesWithin [.f d, .f a] flag s ((s.setF d u).setF a v).complete :=
  ((refl.setF (by simp) u).setF (by simp) v).complete

/-- The one write of a test. -/
theorem setT_complete (b : Bool) : WritesWithin [] true s (s.setT b).complete := (refl.setT b).complete

end WritesWithin

/-- Every command checks its sources and, when they are valid, goes on to a state in which it has written nothing but
its destinations (30_encoding.md R104, R108). -/
theorem exec_eq_checked (i : Instr) (s : State) :
    ∃ go, exec i s = .next (s.checked (sources i) go) ∧ WritesWithin (destinations i) (writesFlag i) s go := by
  cases i
  case nop => exact ⟨s.complete, rfl, WritesWithin.refl.complete⟩
  case zero | one | ldc => exact ⟨(s.setF _ _).complete, rfl, .setF_complete _ _⟩
  case copy | add | sub | neg | mul | sqr | imul | half | fred | pow | inv | cmov => exact ⟨_, rfl, .setF_complete _ _⟩
  case fromres => exact ⟨_, rfl, .setX_complete _ _⟩
  case qr | isz | equ => exact ⟨_, rfl, .setT_complete _⟩
  case tores =>
    refine ⟨_, rfl, ?_⟩
    split
    · exact .raise _ _
    · exact .setF_complete _ _
  case rdd =>
    refine ⟨_, rfl, ?_⟩
    split
    · exact .raise _ _
    · exact .setX_complete _ _
  case sqrt =>
    refine ⟨_, rfl, ?_⟩
    split
    · exact .raise _ _
    · split <;> exact .setF_complete _ _
  case cswap =>
    refine ⟨_, rfl, ?_⟩
    split <;> exact .setF_setF_complete _ _ _ _

end Sys2Proof.Machine

namespace Sys2Proof.Proofs

open Sys2Proof Sys2Proof.Machine

/-- Settles O20: an operand check that fails writes no register, and one that passes leads to the destinations alone. -/
theorem commandsWriteOnlyTheirDestinations : Obligations.CommandsWriteOnlyTheirDestinations := by
  intro i s t h
  obtain ⟨go, hexec, hgo⟩ := exec_eq_checked i s
  obtain rfl := Host.Outcome.next.inj (hexec.symm.trans h)
  obtain ⟨hf, hx, hflag⟩ := hgo.checked (sources i)
  exact ⟨hf, hx, hflag⟩

/-- Settles O21: the operand check names the first invalid source. -/
theorem unwrittenSourceEntersError : Obligations.UnwrittenSourceEntersError := by
  intro i s before after r hsrc hbefore hr
  obtain ⟨go, hexec, -⟩ := exec_eq_checked i s
  have hfirst : firstInvalid s (sources i) = some r :=
    (firstInvalid_some_iff s _ r).2 ⟨before, after, hsrc, hr, hbefore⟩
  refine ⟨s.raise .uninit (some r), ?_, raise_entersError s _ _⟩
  rw [hexec, checked_of_invalid s go hfirst]

/-- Settles O1: the text and the decoding of each row are evaluated; the encoding then follows from O3. -/
theorem workedEncodingsBothWays : Obligations.WorkedEncodingsBothWays := by
  intro row hrow
  have hdecode : decode row.2.1 = .ok row.2.2 := by fin_cases hrow <;> rfl
  have htext : assembleLine row.1 = some [row.2.1] := by fin_cases hrow <;> decide +kernel
  exact ⟨htext, hdecode, (encodeOfDecodeIsTheWord _ _ hdecode).2⟩

end Sys2Proof.Proofs
end

section
/-! SUPPORT for the Montgomery reductions (41_reduction.md R154 to R156). Both divide `d` plus a multiple of `p` by `R`
without remainder; what the residue conversions need of them follows from that alone. -/

namespace Sys2Proof.Machine

/-- `q` is the exact quotient by `R` of `d` plus fewer than `R` times `p`. -/
def MontQuotient (c : Cfg) (d q : Nat) : Prop := ∃ m < c.r, q * c.r = d + m * c.p

section

variable {c : Cfg} {d q : Nat}

/-! ## Which reductions are such a quotient -/

/-- The multiplier of the closed form clears `d` modulo `R` (41_reduction.md R156). -/
theorem mont_montQuotient (h : c.wellFormed = true) (d : Nat) : MontQuotient c d (mont c d) := by
  refine ⟨(c.r - d * pInvR c % c.r) % c.r, Nat.mod_lt _ (r_pos c), Nat.div_mul_cancel ?_⟩
  have hlt : d * pInvR c % c.r < c.r := Nat.mod_lt _ (r_pos c)
  have hinv : c.p * pInvR c ≡ 1 [MOD c.r] := by
    rw [Nat.ModEq, p_mul_pInvR h, Nat.mod_eq_of_lt ((p_prime h).one_lt.trans (p_lt_r h))]
  have hd : d ≡ d * pInvR c % c.r * c.p [MOD c.r] :=
    calc d = d * 1 := (Nat.mul_one d).symm
      _ ≡ d * (c.p * pInvR c) [MOD c.r] := hinv.symm.mul_left d
      _ = d * pInvR c * c.p := by ring
      _ ≡ d * pInvR c % c.r * c.p [MOD c.r] := (Nat.mod_modEq _ _).symm.mul_right c.p
  refine (Nat.modEq_zero_iff_dvd).1 ?_
  calc d + (c.r - d * pInvR c % c.r) % c.r * c.p
      ≡ d * pInvR c % c.r * c.p + (c.r - d * pInvR c % c.r) * c.p [MOD c.r] :=
        hd.add ((Nat.mod_modEq _ _).mul_right c.p)
    _ = c.r * c.p := by rw [← Nat.add_mul, Nat.add_sub_cancel' hlt.le]
    _ ≡ 0 [MOD c.r] := (Nat.modEq_zero_iff_dvd).2 (Nat.dvd_mul_right _ _)

/-- One step of the digit loop makes one digit 0: `MCONST` is `-p^-1` modulo the digit base (41_reduction.md R155). -/
theorem dvd_add_digit_mul {b mconst p : Nat} (hm : b ∣ p * mconst + 1) (q : Nat) :
    b ∣ q + q % b * mconst % b * p := by
  refine (Nat.modEq_zero_iff_dvd).1 ?_
  calc q + q % b * mconst % b * p ≡ q + q * mconst * p [MOD b] :=
        .add_left q (((Nat.mod_modEq _ _).trans ((Nat.mod_modEq _ _).mul_right _)).mul_right p)
    _ = q * (p * mconst + 1) := by ring
    _ ≡ 0 [MOD b] := (Nat.modEq_zero_iff_dvd).2 (hm.mul_left q)

/-- The digit loop adds a multiple of `p` and leaves every digit it has passed 0 (41_reduction.md R155). -/
theorem genDigits_spec (hm : 2 ^ c.w ∣ c.p * c.mconst + 1) (k i q : Nat) :
    ∃ m < (2 ^ c.w) ^ k, genDigits c k i (q * (2 ^ c.w) ^ i) = (q + m * c.p) * (2 ^ c.w) ^ i ∧
      (2 ^ c.w) ^ k ∣ q + m * c.p := by
  induction k generalizing i q with
  | zero => exact ⟨0, by simp, by simp [genDigits], by simp⟩
  | succ k ih =>
    have hb : 0 < 2 ^ c.w := Nat.two_pow_pos _
    simp only [genDigits, digit, pow_mul]
    generalize 2 ^ c.w = b at hm ih hb ⊢
    rw [Nat.mul_div_cancel _ (Nat.pow_pos hb)]
    set m := q % b * c.mconst % b with hmdef
    obtain ⟨q', hq'⟩ : b ∣ q + m * c.p := dvd_add_digit_mul hm q
    obtain ⟨m', hlt, hloop, hdvd⟩ := ih (i + 1) q'
    have hsum : q + (m + b * m') * c.p = b * (q' + m' * c.p) := by rw [Nat.mul_add, ← hq']; ring
    refine ⟨m + b * m', ?_, ?_, ?_⟩
    · calc m + b * m' < b + b * m' := Nat.add_lt_add_right (Nat.mod_lt _ hb) _
        _ = b * (m' + 1) := by ring
        _ ≤ b * b ^ k := Nat.mul_le_mul_left b hlt
        _ = b ^ (k + 1) := (pow_succ' b k).symm
    · have hacc : q * b ^ i + m * c.p * b ^ i = q' * b ^ (i + 1) := by
        rw [← Nat.add_mul, hq', pow_succ]; ring
      rw [hacc, hloop, hsum, pow_succ]
      ring
    · rw [hsum, pow_succ']
      exact Nat.mul_dvd_mul_left b hdvd

theorem genReduce_montQuotient (hm : 2 ^ c.w ∣ c.p * c.mconst + 1) (d : Nat) : MontQuotient c d (genReduce c d) := by
  obtain ⟨m, hlt, hloop, hdvd⟩ := genDigits_spec hm c.n 0 d
  have hr : (2 ^ c.w) ^ c.n = c.r := by rw [← pow_mul, Nat.mul_comm, ← Cfg.gw, ← Cfg.r]
  rw [hr] at hlt hdvd
  rw [pow_zero, Nat.mul_one, Nat.mul_one] at hloop
  refine ⟨m, hlt, ?_⟩
  rw [genReduce, hloop, Nat.div_mul_cancel hdvd]

/-- The reduction of either Montgomery variant. -/
theorem reduce_montQuotient (h : c.wellFormed = true) (hs : c.shape.isShapeBased = false) (d : Nat) :
    MontQuotient c d (reduce c d) := by
  unfold reduce
  split
  next he => simp [he, Shape.isShapeBased] at hs
  next he => simp [he, Shape.isShapeBased] at hs
  next => exact mont_montQuotient h d
  next he =>
    obtain ⟨-, -, hgen⟩ := (shapeHolds_iff c).1 (shapeHolds_of_wellFormed h)
    exact genReduce_montQuotient (hgen he).2 d

/-! ## What the quotient is -/

/-- The quotient represents modulo `p` what `d` stands for in residue form (10_state.md R36). -/
theorem MontQuotient.mod_p (hq : MontQuotient c d q) (h : c.wellFormed = true)
    (hs : c.shape.isShapeBased = false) : q % c.p = val c d := by
  obtain ⟨m, -, hm⟩ := hq
  have hinv : c.r * rInv c ≡ 1 [MOD c.p] := by
    rw [Nat.ModEq, r_mul_rInv h, Nat.mod_eq_of_lt (p_prime h).one_lt]
  have hd : q * c.r ≡ d [MOD c.p] := by
    rw [hm, Nat.ModEq, Nat.add_mul_mod_self_right]
  have hval : val c d = d * rInv c % c.p := by simp [val, hs]
  rw [hval]
  calc q = q * 1 := (Nat.mul_one q).symm
    _ ≡ q * (c.r * rInv c) [MOD c.p] := hinv.symm.mul_left q
    _ = q * c.r * rInv c := (Nat.mul_assoc _ _ _).symm
    _ ≡ d * rInv c [MOD c.p] := hd.mul_right _

/-- A single-width operand reduces to at most `p` (41_reduction.md R156). -/
theorem MontQuotient.le_p (hq : MontQuotient c d q) (hd : d < c.r) : q ≤ c.p := by
  obtain ⟨m, hlt, hm⟩ := hq
  refine Nat.lt_succ_iff.1 (Nat.lt_of_mul_lt_mul_right (a := c.r) ?_)
  calc q * c.r < c.r + c.r * c.p := hm ▸ Nat.add_lt_add_of_lt_of_le hd (Nat.mul_le_mul_right _ hlt.le)
    _ = c.p.succ * c.r := by rw [Nat.succ_eq_add_one]; ring

/-- A multiple of `p` has a multiple of `p` as its quotient, `R` being prime to `p`. -/
theorem MontQuotient.p_dvd_iff (hq : MontQuotient c d q) (h : c.wellFormed = true) : c.p ∣ q ↔ c.p ∣ d := by
  obtain ⟨m, -, hm⟩ := hq
  rw [← (coprime_p_r h).dvd_mul_right, hm, Nat.dvd_add_left (Nat.dvd_mul_left _ _)]

/-- Only 0 reduces to 0. -/
theorem MontQuotient.eq_zero_iff (hq : MontQuotient c d q) (h : c.wellFormed = true) : q = 0 ↔ d = 0 := by
  have hdvd := hq.p_dvd_iff h
  obtain ⟨m, hlt, hm⟩ := hq
  constructor
  · rintro rfl
    omega
  · rintro rfl
    have hqp : q < c.p := by
      refine Nat.lt_of_mul_lt_mul_right (a := c.r) ?_
      rw [hm, Nat.zero_add, Nat.mul_comm c.p]
      exact Nat.mul_lt_mul_of_pos_right hlt (p_prime h).pos
    exact Nat.eq_zero_of_dvd_of_lt (hdvd.2 (Nat.dvd_zero _)) hqp

/-- A single-width operand reduces to `p` itself exactly for a non-zero multiple of `p` (41_reduction.md R156). -/
theorem MontQuotient.eq_p_iff (hq : MontQuotient c d q) (h : c.wellFormed = true) (hd : d < c.r) :
    q = c.p ↔ d ≠ 0 ∧ c.p ∣ d := by
  rw [← hq.p_dvd_iff h, Ne, ← hq.eq_zero_iff h]
  constructor
  · rintro rfl
    exact ⟨(p_prime h).ne_zero, dvd_rfl⟩
  · rintro ⟨hne, hdvd⟩
    exact le_antisymm (hq.le_p hd) (Nat.le_of_dvd (Nat.pos_of_ne_zero hne) hdvd)

end

end Sys2Proof.Machine
end

section
/-! SUPPORT for the residue conversions (40_residue.md R130, R132), and PROOFS of the statements on ONE, LDC, TORES and
FROMRES. -/

namespace Sys2Proof.Machine

theorem isShapeBased_iff (shape : Shape) : shape.isShapeBased = true ↔ shape = .pm ∨ shape = .gm := by
  cases shape <;> decide

theorem not_isShapeBased_iff (shape : Shape) : shape.isShapeBased = false ↔ shape = .mf ∨ shape = .gen := by
  cases shape <;> decide

section

variable {c : Cfg} {x : Nat} {a : FElem}

/-! ## Into residue form -/

theorem toResidue_eq (c : Cfg) (x : Nat) :
    toResidue c x = if c.shape = .pm ∨ c.shape = .gm then ⟨x, 1⟩ else ⟨reduce c (x * c.r2), 2⟩ :=
  if_congr (isShapeBased_iff c.shape) rfl rfl

/-- The product with `R2` stands for the Montgomery form of `x` (40_residue.md R130). -/
theorem val_mul_r2 (h : c.wellFormed = true) (hs : c.shape.isShapeBased = false) (x : Nat) :
    val c (x * c.r2) = rep c x := by
  have hrep (v : Nat) : rep c v = v * c.r % c.p := by simp [rep, hs]
  have htwice : x * c.r2 % c.p = rep c (rep c x) := by
    rw [hrep, hrep, Nat.mod_mul_mod, Cfg.r2, Nat.mul_mod_mod, Nat.mul_assoc]
  rw [← val_mod, htwice, val_rep h, hrep, Nat.mod_mod]

/-- The conversion keeps the integer as the field value (40_residue.md R130). -/
theorem val_toResidue (h : c.wellFormed = true) (hx : x < c.p) : val c (toResidue c x).g = x := by
  unfold toResidue
  split
  next hs => simp [val, hs, Nat.mod_eq_of_lt hx]
  next hs =>
    have hm : c.shape.isShapeBased = false := Bool.eq_false_of_not_eq_true hs
    have hmod := (reduce_montQuotient h hm (x * c.r2)).mod_p h hm
    rw [← val_mod, hmod, val_mul_r2 h hm, val_rep h, Nat.mod_eq_of_lt hx]

/-- Zero is converted to the value 0 (40_residue.md R131, corner cases). -/
theorem toResidue_zero_g (h : c.wellFormed = true) : (toResidue c 0).g = 0 := by
  unfold toResidue
  split
  next => rfl
  next hs =>
    rw [Nat.zero_mul]
    exact ((reduce_montQuotient h (Bool.eq_false_of_not_eq_true hs) 0).eq_zero_iff h).2 rfl

/-! ## Out of residue form -/

theorem fromResidue_of_shapeBased (hs : c.shape.isShapeBased = true) (a : FElem) : fromResidue c a = a.g := if_pos hs

theorem fromResidue_montQuotient (h : c.wellFormed = true) (hs : c.shape.isShapeBased = false) (a : FElem) :
    MontQuotient c a.g (fromResidue c a) := by
  simpa [fromResidue, hs] using reduce_montQuotient h hs a.g

/-- The result is congruent to the field value, in every variant (40_residue.md R132). -/
theorem fromResidue_mod_p (h : c.wellFormed = true) (a : FElem) : fromResidue c a % c.p = val c a.g := by
  cases hs : c.shape.isShapeBased
  case true => simp [fromResidue_of_shapeBased hs, val, hs]
  case false => exact (fromResidue_montQuotient h hs a).mod_p h hs

theorem fromResidue_le_p (h : c.wellFormed = true) (hs : c.shape.isShapeBased = false) (ha : a.bounded c = true) :
    fromResidue c a ≤ c.p :=
  (fromResidue_montQuotient h hs a).le_p (g_lt_r_of_bounded h ha)

theorem fromResidue_eq_p_iff (h : c.wellFormed = true) (hs : c.shape.isShapeBased = false)
    (ha : a.bounded c = true) : fromResidue c a = c.p ↔ a.g ≠ 0 ∧ c.p ∣ a.g :=
  (fromResidue_montQuotient h hs a).eq_p_iff h (g_lt_r_of_bounded h ha)

/-- The result is the field value itself wherever it is below `p`. -/
theorem fromResidue_eq_val (h : c.wellFormed = true) (a : FElem) (hlt : fromResidue c a < c.p) :
    fromResidue c a = val c a.g := by
  rw [← fromResidue_mod_p h, Nat.mod_eq_of_lt hlt]

/-- A value below `p` is read as its field value (40_residue.md R132). -/
theorem fromResidue_eq_val_of_lt_p (h : c.wellFormed = true) (ha : a.bounded c = true) (hg : a.g < c.p) :
    fromResidue c a = val c a.g := by
  refine fromResidue_eq_val h a ?_
  cases hs : c.shape.isShapeBased
  case true => rwa [fromResidue_of_shapeBased hs]
  case false =>
    refine lt_of_le_of_ne (fromResidue_le_p h hs ha) fun he => ?_
    obtain ⟨hne, hdvd⟩ := (fromResidue_eq_p_iff h hs ha).1 he
    exact hne (Nat.eq_zero_of_dvd_of_lt hdvd hg)

/-- The round trip (40_residue.md R135). A converted value may lie above `p`, but it is no non-zero multiple of `p`:
its field value would be 0, and 0 itself is converted to 0. -/
theorem fromResidue_toResidue (h : c.wellFormed = true) (hx : x < c.p) : fromResidue c (toResidue c x) = x := by
  have hb := toResidue_bounded h hx
  have hval := val_toResidue h hx
  cases hs : c.shape.isShapeBased
  case true => simp [fromResidue, toResidue, hs]
  case false =>
    refine (fromResidue_eq_val h _ (lt_of_le_of_ne (fromResidue_le_p h hs hb) fun he => ?_)).trans hval
    have hx0 : x = 0 := by rw [← hval, ← fromResidue_mod_p h, he, Nat.mod_self]
    subst hx0
    exact ((fromResidue_eq_p_iff h hs hb).1 he).1 (toResidue_zero_g h)

theorem oneElem_canonical (h : c.wellFormed = true) : (oneElem c).canonical c = true := by
  have hlt : rep c 1 < c.p := by
    unfold rep
    split <;> exact Nat.mod_lt _ (p_prime h).pos
  simp [FElem.canonical, oneElem, hlt]

theorem val_oneElem (h : c.wellFormed = true) : val c (oneElem c).g = 1 :=
  (val_rep h 1).trans (Nat.mod_eq_of_lt (p_prime h).one_lt)

end

/-! ## The commands with their sources valid -/

section

variable {s : State}

theorem wellFormed_of_inv (hs : s.Inv) : s.cfg.wellFormed = true :=
  let ⟨hwf, _⟩ := hs
  hwf

theorem exec_tores (d : FIdx) {a : XIdx} (hv : s.XValid a) (hlt : s.xval a < s.cfg.p) :
    exec (.tores d a) s = .next (s.setF d (toResidue s.cfg (s.xval a))).complete :=
  congrArg Host.Outcome.next
    ((checked_of_valid s _ (List.forall_mem_singleton.2 hv)).trans (if_neg (Nat.not_le.2 hlt)))

theorem exec_fromres (d : XIdx) {a : FIdx} (hv : s.FValid a) :
    exec (.fromres d a) s = .next (s.setX d (fromResidue s.cfg (s.felem a))).complete :=
  congrArg Host.Outcome.next (checked_of_valid s _ (List.forall_mem_singleton.2 hv))

end

end Sys2Proof.Machine

namespace Sys2Proof.Proofs

open Sys2Proof Sys2Proof.Machine

/-- Settles O37: ONE writes the canonical identity, and LDC converts a ROM entry, which WF6 keeps below `p`. -/
theorem commandsWithoutSourcesComplete : Obligations.CommandsWithoutSourcesComplete := by
  intro s d k
  refine ⟨⟨_, rfl, (RegistersOnly.refl s).completed, rfl, rfl, rfl⟩, ⟨_, rfl, setF_complete_writesF s d _⟩,
    ⟨_, rfl, setF_complete_writesF s d _, fun hs => ?_⟩, ⟨_, rfl, setF_complete_writesF s d _, fun hs => ?_⟩⟩
  · have hwf := wellFormed_of_inv hs
    rw [complete_f, setF_read_same]
    exact ⟨val_oneElem hwf, oneElem_canonical hwf⟩
  · have hwf := wellFormed_of_inv hs
    have hrom := romEntry_lt_p hwf k
    rw [complete_f, setF_read_same]
    exact ⟨val_toResidue hwf hrom, toResidue_bounded hwf hrom⟩

/-- Settles O39: TORES writes `toResidue`, and the product it reduces is within the contract of the reduction. -/
theorem toresLoadsTheInteger : Obligations.ToresLoadsTheInteger := by
  intro s d a hv hlt
  rw [← toResidue_eq]
  refine ⟨_, exec_tores d hv hlt, setF_complete_writesF s d _, fun hs => ?_⟩
  have hwf := wellFormed_of_inv hs
  rw [complete_f, setF_read_same]
  exact ⟨val_toResidue hwf hlt, toResidue_bounded hwf hlt⟩

/-- Settles O40: the value of a valid register is below `R`, where a reduction is at most `p`. -/
theorem fromresReadsTheValue : Obligations.FromresReadsTheValue := by
  intro s d a hv
  refine ⟨_, exec_fromres d hv, setX_complete_writesX s d _, fun hs => ?_⟩
  have hwf := wellFormed_of_inv hs
  have hb := (filesOk_of_inv hs).felem_bounded hv
  rw [complete_x, setX_read_same]
  refine ⟨fromResidue_mod_p hwf _, fromResidue_eq_val_of_lt_p hwf hb,
    fun hshape => fromResidue_of_shapeBased ((isShapeBased_iff _).2 hshape) _, fun hshape => ?_⟩
  have hmont := (not_isShapeBased_iff _).2 hshape
  exact ⟨fromResidue_le_p hwf hmont hb, fromResidue_eq_p_iff hwf hmont hb⟩

/-- Settles O41: FROMRES reads the element TORES has written, in the same build. -/
theorem toresThenFromresIsTheInteger : Obligations.ToresThenFromresIsTheInteger := by
  intro s d a e hs hv hlt
  have hwrite := setF_complete_writesF s d (toResidue s.cfg (s.xval a))
  set t := (s.setF d (toResidue s.cfg (s.xval a))).complete
  have hvalid : t.FValid d := congrArg FReg.valid hwrite.dest
  have hread : fromResidue t.cfg (t.felem d) = s.xval a := by
    rw [State.felem, hwrite.dest, hwrite.completed.cfg, fromResidue_toResidue (wellFormed_of_inv hs) hlt]
  refine ⟨t, _, exec_tores d hv hlt, exec_fromres e hvalid, ?_⟩
  rw [hread]
  exact setX_complete_writesX t e _

end Sys2Proof.Proofs
end

section
/-! SUPPORT for the reduction engine (41_reduction.md). Every variant answers a representative of the field value of its
operand; the closed form is the only quotient of its kind, and both digit loops compute it. -/

namespace Sys2Proof.Machine

section

variable {c : Cfg} {d q q' : Nat}

/-! ## The closed form (41_reduction.md R156) -/

/-- The multiplier is determined modulo `R`, so a quotient of this kind is unique. -/
theorem MontQuotient.unique (hq : MontQuotient c d q) (hq' : MontQuotient c d q') (h : c.wellFormed = true) :
    q = q' := by
  obtain ⟨m, hlt, hm⟩ := hq
  obtain ⟨m', hlt', hm'⟩ := hq'
  have hsum : d + m * c.p ≡ d + m' * c.p [MOD c.r] := by
    rw [← hm, ← hm']
    exact (Nat.modEq_zero_iff_dvd.2 (Nat.dvd_mul_left _ _)).trans
      (Nat.modEq_zero_iff_dvd.2 (Nat.dvd_mul_left _ _)).symm
  have hmul : m ≡ m' [MOD c.r] :=
    Nat.ModEq.cancel_right_of_coprime (coprime_p_r h).symm (Nat.ModEq.add_left_cancel' d hsum)
  obtain rfl : m = m' := hmul.eq_of_lt_of_lt hlt hlt'
  exact Nat.eq_of_mul_eq_mul_right (r_pos c) (hm.trans hm'.symm)

/-- Property (a). It holds in every build: the closed form does not look at the shape. -/
theorem MontQuotient.mod_p_eq_mul_rInv (hq : MontQuotient c d q) (h : c.wellFormed = true) :
    q % c.p = d * rInv c % c.p := by
  obtain ⟨m, -, hm⟩ := hq
  calc q % c.p = q * (c.r * rInv c) % c.p := by rw [Nat.mul_mod, r_mul_rInv h, Nat.mul_one, Nat.mod_mod]
    _ = (d * rInv c + m * rInv c * c.p) % c.p := by rw [← Nat.mul_assoc, hm, Nat.add_mul, Nat.mul_right_comm]
    _ = d * rInv c % c.p := Nat.add_mul_mod_self_right _ _ _

/-- Property (b). -/
theorem MontQuotient.mul_r_lt (hq : MontQuotient c d q) (h : c.wellFormed = true) : q * c.r < d + c.p * c.r := by
  obtain ⟨m, hlt, hm⟩ := hq
  rw [hm, Nat.mul_comm c.p]
  exact Nat.add_lt_add_left (Nat.mul_lt_mul_of_pos_right hlt (p_prime h).pos) d

/-- Property (f). The operand is below `p`, so the quotient is not `p` itself. -/
theorem mont_r2 (h : c.wellFormed = true) : mont c c.r2 = c.r % c.p := by
  have hq := mont_montQuotient h c.r2
  have hr2 : c.r2 < c.p := Nat.mod_lt _ (p_prime h).pos
  have hr2r : c.r2 < c.r := hr2.trans (p_lt_r h)
  have hlt : mont c c.r2 < c.p := by
    refine lt_of_le_of_ne (hq.le_p hr2r) fun he => ?_
    obtain ⟨hne, hdvd⟩ := (hq.eq_p_iff h hr2r).1 he
    exact hne (Nat.eq_zero_of_dvd_of_lt hdvd hr2)
  calc mont c c.r2 = mont c c.r2 % c.p := (Nat.mod_eq_of_lt hlt).symm
    _ = c.r2 * rInv c % c.p := hq.mod_p_eq_mul_rInv h
    _ = c.r * (c.r * rInv c) % c.p := by rw [Cfg.r2, Nat.mod_mul_mod, Nat.mul_assoc]
    _ = c.r % c.p := by rw [Nat.mul_mod, r_mul_rInv h, Nat.mul_one, Nat.mod_mod]

/-! ## The digit loops (41_reduction.md R154, R155) -/

/-- With two digits or more, WF4 makes `p` equal to `-1` modulo the digit base (00_scope.md R9). -/
theorem two_pow_w_dvd_p_add_one (hmf : c.p + 1 = c.mconst * 2 ^ (c.w * (c.n - 1))) (hn : 2 ≤ c.n) :
    2 ^ c.w ∣ c.p + 1 := by
  rw [hmf]
  exact Dvd.dvd.mul_left (pow_dvd_pow 2 (Nat.le_mul_of_pos_right _ (by omega))) _

theorem two_pow_w_pow_n (c : Cfg) : (2 ^ c.w) ^ c.n = c.r := by rw [← pow_mul, Nat.mul_comm, ← Cfg.gw, ← Cfg.r]

/-- A digit put before `i` digits makes a number of `i + 1` digits. -/
theorem add_digit_mul_pow_lt {b e m i : Nat} (he : e < b ^ i) (hm : m < b) : e + m * b ^ i < b ^ (i + 1) :=
  calc e + m * b ^ i < b ^ i + m * b ^ i := Nat.add_lt_add_right he _
    _ = (m + 1) * b ^ i := by ring
    _ ≤ b * b ^ i := Nat.mul_le_mul_right _ hm
    _ = b ^ (i + 1) := (pow_succ' b i).symm

theorem digit_mul_pow_add (q : Nat) {i e : Nat} (he : e < (2 ^ c.w) ^ i) :
    digit c i (q * (2 ^ c.w) ^ i + e) = q % 2 ^ c.w := by
  rw [digit, pow_mul, Nat.mul_comm q, Nat.mul_add_div (Nat.zero_lt_of_lt he), Nat.div_eq_of_lt he, Nat.add_zero]

/-- The Montgomery-friendly loop runs as the general one with the constant 1. What it adds beyond that, each digit once
more at its own place, stays in the digits it has passed, which no later step reads (41_reduction.md R154). -/
theorem mfDigits_eq_genDigits (hmf : c.p + 1 = c.mconst * 2 ^ (c.w * (c.n - 1))) (hn : 2 ≤ c.n) (k i q : Nat)
    {e : Nat} (he : e < (2 ^ c.w) ^ i) :
    ∃ e' < (2 ^ c.w) ^ (i + k), mfDigits c k i (q * (2 ^ c.w) ^ i + e) =
      genDigits { c with mconst := 1 } k i (q * (2 ^ c.w) ^ i) + e' := by
  induction k generalizing i q e with
  | zero => exact ⟨e, he, rfl⟩
  | succ k ih =>
    have hb : 0 < 2 ^ c.w := Nat.two_pow_pos _
    have hclear : digit { c with mconst := 1 } i (q * (2 ^ c.w) ^ i) = q % 2 ^ c.w :=
      digit_mul_pow_add (c := { c with mconst := 1 }) q (Nat.pow_pos hb)
    have hoff : c.w * (i + c.n - 1) = c.w * (c.n - 1) + c.w * i := by
      rw [← Nat.mul_add]; congr 1; omega
    have hdvd : 2 ^ c.w ∣ q + q % 2 ^ c.w * c.p := by
      simpa using dvd_add_digit_mul (mconst := 1) (by simpa using two_pow_w_dvd_p_add_one hmf hn) q
    simp only [mfDigits, genDigits, digit_mul_pow_add q he, hclear, hoff, pow_add 2, pow_mul 2 c.w i, Nat.mul_one,
      Nat.mod_mod]
    have hlt : q % 2 ^ c.w < 2 ^ c.w := Nat.mod_lt _ hb
    generalize 2 ^ (c.w * (c.n - 1)) = t at hmf ⊢
    generalize 2 ^ c.w = b at hdvd hb he ih hlt ⊢
    generalize q % b = m at hdvd hlt ⊢
    obtain ⟨q', hq'⟩ := hdvd
    have hgen : q * b ^ i + m * c.p * b ^ i = q' * b ^ (i + 1) := by
      rw [← Nat.add_mul, hq', pow_succ]; ring
    have hmfacc : q * b ^ i + e + m * c.mconst * (t * b ^ i) = q' * b ^ (i + 1) + (e + m * b ^ i) := by
      rw [← hgen, show m * c.mconst * (t * b ^ i) = m * (c.mconst * t) * b ^ i by ring, ← hmf]; ring
    rw [hmfacc, hgen, ← Nat.succ_add_eq_add_succ]
    exact ih (i + 1) q' (add_digit_mul_pow_lt he hlt)

/-- The high half of the accumulator is that of the general loop, which clears the low half. -/
theorem mfDigitSerial_montQuotient (hmf : c.p + 1 = c.mconst * 2 ^ (c.w * (c.n - 1))) (hn : 2 ≤ c.n) (d : Nat) :
    MontQuotient c d (mfDigitSerial c d) := by
  have hone : 2 ^ c.w ∣ c.p * 1 + 1 := by simpa using two_pow_w_dvd_p_add_one hmf hn
  obtain ⟨m, hlt, hloop, hdvd⟩ := genDigits_spec (c := { c with mconst := 1 }) hone c.n 0 d
  obtain ⟨e, he, hmfloop⟩ := mfDigits_eq_genDigits hmf hn c.n 0 d Nat.one_pos
  simp only [pow_zero, Nat.mul_one, Nat.add_zero, Nat.zero_add, two_pow_w_pow_n] at hlt hloop hdvd he hmfloop
  refine ⟨m, hlt, ?_⟩
  rw [mfDigitSerial, hmfloop, hloop, Nat.add_div_of_dvd_right hdvd, Nat.div_eq_of_lt he, Nat.add_zero,
    Nat.div_mul_cancel hdvd]

/-! ## The contract (41_reduction.md R152) -/

/-- A fold exchanges multiples of `2^NBITS` for the same multiples of `C`, and `p` is their difference
(41_reduction.md R151). -/
theorem pmFold_mod_p (hpc : c.p + c.c = 2 ^ c.nbits) (d : Nat) : pmFold c d % c.p = d % c.p := by
  have hsplit : pmFold c d + d / 2 ^ c.nbits * c.p = d :=
    calc pmFold c d + d / 2 ^ c.nbits * c.p = d % 2 ^ c.nbits + (c.p + c.c) * (d / 2 ^ c.nbits) := by rw [pmFold]; ring
      _ = d := by rw [hpc, Nat.mod_add_div]
  conv_rhs => rw [← hsplit, Nat.add_mul_mod_self_right]

theorem gmReduce_mod_p (c : Cfg) (d : Nat) : gmReduce c d % c.p = d % c.p := by
  unfold gmReduce
  split <;> simp

/-- In every variant the reduction is congruent to the field value its operand represents (10_state.md R36). -/
theorem reduce_mod_p (h : c.wellFormed = true) (d : Nat) : reduce c d % c.p = val c d := by
  cases hs : c.shape.isShapeBased
  case false => exact (reduce_montQuotient h hs d).mod_p h hs
  case true =>
    rw [val, if_pos hs]
    obtain he | he := (isShapeBased_iff _).1 hs
    · obtain ⟨hpc, -⟩ := ((shapeHolds_iff c).1 (shapeHolds_of_wellFormed h)).1 he
      rw [reduce, he]
      exact (pmFold_mod_p hpc _).trans (pmFold_mod_p hpc d)
    · rw [reduce, he]
      exact gmReduce_mod_p c d

/-- The reduction of a product represents the product of the field values. -/
theorem val_reduce_mul (h : c.wellFormed = true) (ga gb : Nat) :
    val c (reduce c (ga * gb)) = val c ga * val c gb % c.p := by
  rw [← val_mod, reduce_mod_p h]
  unfold val
  split
  · rw [Nat.mod_mod, Nat.mul_mod]
  · rw [Nat.mod_mul_mod, ← Nat.mul_mod]
    congr 1
    ring

theorem rep_mod (c : Cfg) (v : Nat) : rep c (v % c.p) = rep c v := by
  unfold rep
  split
  · rw [Nat.mod_mod]
  · rw [Nat.mod_mul_mod]

/-- The reduction itself in a shape-based build, and its product with `R` in a Montgomery one, is congruent to the
operand (41_reduction.md R152). -/
theorem rep_reduce (h : c.wellFormed = true) (d : Nat) : rep c (reduce c d) = d % c.p := by
  rw [← rep_mod, reduce_mod_p h, rep_val h]

theorem rep_eq (c : Cfg) (v : Nat) : rep c v = (if c.shape = .pm ∨ c.shape = .gm then v else v * c.r) % c.p := by
  rw [apply_ite (· % c.p)]
  exact if_congr (isShapeBased_iff c.shape) rfl rfl

theorem reduceBound_eq (c : Cfg) : reduceBound c = c.cap * c.p ^ 2 := by rw [reduceBound, pow_two]

end

/-! ## RDD (41_reduction.md R157) -/

theorem exec_rdd {s : State} (d : XIdx) {a b : XIdx} (ha : s.XValid a) (hb : s.XValid b)
    (hd : doubleWidth s a b ≤ reduceBound s.cfg) :
    exec (.rdd d a b) s = .next (s.setX d (reduce s.cfg (doubleWidth s a b))).complete :=
  congrArg Host.Outcome.next
    ((checked_of_valid s _ (List.forall_mem_cons.2 ⟨ha, List.forall_mem_singleton.2 hb⟩)).trans
      (if_neg (Nat.not_lt.2 hd)))

end Sys2Proof.Machine

namespace Sys2Proof.Proofs

open Sys2Proof Sys2Proof.Machine

/-- Settles O36: the closed form is an exact quotient, and the properties are those of such a quotient. -/
theorem montgomeryClosedForm : Obligations.MontgomeryClosedForm := by
  intro c d h
  have hq := mont_montQuotient h d
  have hbound : d ≤ c.cap * c.p ^ 2 → mont c d < 2 * c.p := fun hd => mont_lt h (by rwa [reduceBound_eq])
  have hzero : mont c 0 = 0 := ((mont_montQuotient h 0).eq_zero_iff h).2 rfl
  refine ⟨?_, hq.mod_p_eq_mul_rInv h, hq.mul_r_lt h, hbound, fun hd => ⟨hq.le_p hd, hq.eq_p_iff h hd⟩, hzero,
    mont_r2 h⟩
  obtain ⟨m, hlt, hm⟩ := hq
  exact ⟨m, hlt, by rw [Nat.add_comm, ← hm, Nat.mul_mod_left], hm⟩

/-- Settles O35: each loop leaves an exact quotient, and there is only one. -/
theorem digitLoopsAreMontgomery : Obligations.DigitLoopsAreMontgomery := by
  intro c d h
  have hmont := mont_montQuotient h d
  obtain ⟨-, hmf, hgen⟩ := (shapeHolds_iff c).1 (shapeHolds_of_wellFormed h)
  refine ⟨fun hs => ?_, fun hs hn => ?_⟩
  · obtain ⟨-, hconst⟩ := hgen hs
    exact (genReduce_montQuotient hconst d).unique hmont h
  · obtain ⟨hp, -⟩ := hmf hs
    exact (mfDigitSerial_montQuotient hp hn d).unique hmont h

/-- Settles O34: the congruences are one statement on field values, read in each representation. -/
theorem reductionMeetsItsContract : Obligations.ReductionMeetsItsContract := by
  intro c d h hd
  rw [← reduceBound_eq] at hd
  have hmod := reduce_mod_p h d
  refine ⟨r_mul_rInv h, reduce_lt_two_mul_p h hd, fun hs => ?_, fun hs => ?_, ?_⟩
  · rwa [val, if_pos ((isShapeBased_iff _).2 hs)] at hmod
  · simpa [val, (not_isShapeBased_iff _).2 hs] using hmod
  · rintro ga gb rfl
    exact val_reduce_mul h ga gb

/-- Settles O42: RDD writes the reduction of its double-width operand, whose contract is that of every variant. -/
theorem rddReducesTheDoubleWord : Obligations.RddReducesTheDoubleWord := by
  intro s d a b ha hb hd
  rw [← reduceBound_eq] at hd
  refine ⟨_, exec_rdd d ha hb hd, setX_complete_writesX s d _, fun hs => ?_⟩
  have hwf := wellFormed_of_inv hs
  rw [complete_x, setX_read_same, ← rep_eq]
  exact ⟨reduce_lt_two_mul_p hwf hd, rep_reduce hwf _⟩

end Sys2Proof.Proofs
end

section
/-! SUPPORT for the arithmetic commands (42_arith.md), and PROOFS of their statements. The field value is additive, so
the value of each operation on register values follows from its integer formula. -/

namespace Sys2Proof.Machine

section

variable {c : Cfg} {a b : FElem}

/-! ## The field value of a register value (10_state.md R36) -/

theorem val_mod_p (h : c.wellFormed = true) (g : Nat) : val c g % c.p = val c g := Nat.mod_eq_of_lt (val_lt h g)

theorem val_add (c : Cfg) (g g' : Nat) : val c (g + g') = (val c g + val c g') % c.p := by
  unfold val
  split
  · exact Nat.add_mod _ _ _
  · rw [Nat.add_mul, Nat.add_mod]

theorem val_mul_nat (c : Cfg) (g m : Nat) : val c (g * m) = m * val c g % c.p := by
  unfold val
  split
  · rw [Nat.mul_mod_mod, Nat.mul_comm]
  · rw [Nat.mul_mod_mod, Nat.mul_right_comm, Nat.mul_comm]

theorem val_mul_p (c : Cfg) (k : Nat) : val c (k * c.p) = 0 := by
  rw [val_mul_nat, val]
  split <;> simp

theorem val_eq_zero_iff (h : c.wellFormed = true) (g : Nat) : val c g = 0 ↔ g % c.p = 0 := by
  have hzero : val c 0 = 0 := by simpa using val_mul_p c 0
  simpa [hzero] using val_eq_iff h g 0

/-- A field value is the remainder of every integer congruent to it. -/
theorem natCast_val_eq_emod (h : c.wellFormed = true) {g : Nat} {z : ℤ} (hz : (val c g : ℤ) ≡ z [ZMOD c.p]) :
    (val c g : ℤ) = z % c.p := by
  have hlt : (val c g : ℤ) < c.p := Int.ofNat_lt.2 (val_lt h g)
  rw [← hz.eq, Int.emod_eq_of_lt (Int.natCast_nonneg _) hlt]

/-! ## Sums, negatives and differences -/

/-- The capacity check keeps the field value (42_arith.md R170). -/
theorem val_capped (c : Cfg) (a : FElem) : val c (capped c a).g = val c a.g := by
  unfold capped
  split
  · exact val_mod c a.g
  · rfl

theorem val_addElem (c : Cfg) (a b : FElem) : val c (addElem c a b).g = (val c a.g + val c b.g) % c.p :=
  (val_capped c _).trans (val_add c a.g b.g)

/-- The subtraction of a negation does not go below 0 (42_arith.md R175). -/
theorem g_le_nextpow2_mul_p (ha : a.bounded c = true) : a.g ≤ nextpow2 a.e * c.p := by
  obtain ⟨-, -, hg⟩ := bounded_iff.1 ha
  exact hg.trans (Nat.mul_le_mul_right _ (le_nextpow2 a.e))

/-- The negative and the element add up to a multiple of `p` (42_arith.md R175). -/
theorem val_negElem_add (ha : a.bounded c = true) : (val c (negElem c a).g + val c a.g) % c.p = 0 :=
  calc (val c (negElem c a).g + val c a.g) % c.p
      = (val c (nextpow2 a.e * c.p - a.g) + val c a.g) % c.p := by rw [negElem, val_capped]
    _ = val c (nextpow2 a.e * c.p) := by rw [← val_add, Nat.sub_add_cancel (g_le_nextpow2_mul_p ha)]
    _ = 0 := val_mul_p c _

/-- The difference and the element subtracted add up to the other (42_arith.md R178). -/
theorem val_subElem_add (h : c.wellFormed = true) (hb : b.bounded c = true) :
    (val c (subElem c a b).g + val c b.g) % c.p = val c a.g := by
  rw [subElem, val_addElem, Nat.mod_add_mod, Nat.add_assoc, Nat.add_mod, val_negElem_add hb, Nat.add_zero, Nat.mod_mod,
    val_mod_p h]

theorem negElem_of_le_cap (he : nextpow2 a.e ≤ c.cap) :
    negElem c a = ⟨nextpow2 a.e * c.p - a.g, nextpow2 a.e⟩ := if_neg (Nat.not_lt.2 he)

theorem addElem_of_le_cap (he : a.e + b.e ≤ c.cap) : addElem c a b = ⟨a.g + b.g, a.e + b.e⟩ :=
  if_neg (Nat.not_lt.2 he)

/-- The excess of a difference when neither capacity check fires (42_arith.md R178). -/
theorem subElem_e (hb : nextpow2 b.e ≤ c.cap) (hab : a.e + nextpow2 b.e ≤ c.cap) :
    (subElem c a b).e = a.e + nextpow2 b.e := by
  rw [subElem, negElem_of_le_cap hb, addElem_of_le_cap hab]

/-! ## Products and squares -/

theorem mulElem_eq (c : Cfg) (a b : FElem) :
    mulElem c a b =
      if a.e * b.e > c.cap then ⟨reduce c (a.g % c.p * b.g), 2⟩ else ⟨reduce c (a.g * b.g), 2⟩ := by
  unfold mulElem
  split <;> rfl

theorem sqrElem_eq (c : Cfg) (a : FElem) :
    sqrElem c a =
      if a.e * a.e > c.cap then ⟨reduce c (a.g % c.p * (a.g % c.p)), 2⟩ else ⟨reduce c (a.g * a.g), 2⟩ := by
  unfold sqrElem
  split <;> rfl

/-- Reducing operand A first does not change the product (42_arith.md R181). -/
theorem val_mulElem (h : c.wellFormed = true) (a b : FElem) :
    val c (mulElem c a b).g = val c a.g * val c b.g % c.p := by
  rw [mulElem_eq]
  split
  · rw [val_reduce_mul h, val_mod]
  · exact val_reduce_mul h a.g b.g

/-- Reducing both factors first does not change the square (42_arith.md R186). -/
theorem val_sqrElem (h : c.wellFormed = true) (a : FElem) :
    val c (sqrElem c a).g = val c a.g * val c a.g % c.p := by
  rw [sqrElem_eq]
  split
  · rw [val_reduce_mul h, val_mod]
  · exact val_reduce_mul h a.g a.g

/-- Two factors within their excesses, whose product is within the capacity, keep the reduction to its contract
(10_state.md R34). -/
theorem reduce_mul_lt (h : c.wellFormed = true) {ga gb ea eb : Nat} (ha : ga ≤ ea * c.p) (hb : gb ≤ eb * c.p)
    (he : ea * eb ≤ c.cap) : reduce c (ga * gb) < 2 * c.p := by
  refine reduce_lt_two_mul_p h ?_
  calc ga * gb ≤ ea * c.p * (eb * c.p) := Nat.mul_le_mul ha hb
    _ = ea * eb * (c.p * c.p) := by ring
    _ ≤ reduceBound c := Nat.mul_le_mul_right _ he

/-- A fully reduced factor is within excess 1. -/
theorem mod_p_le_one_mul_p (h : c.wellFormed = true) (g : Nat) : g % c.p ≤ 1 * c.p := by
  rw [Nat.one_mul]
  exact (Nat.mod_lt _ (p_prime h).pos).le

theorem mulElem_g_lt (h : c.wellFormed = true) (ha : a.bounded c = true) (hb : b.bounded c = true) :
    (mulElem c a b).g < 2 * c.p := by
  obtain ⟨-, -, hga⟩ := bounded_iff.1 ha
  obtain ⟨-, hcap, hgb⟩ := bounded_iff.1 hb
  rw [mulElem_eq]
  split
  · exact reduce_mul_lt h (mod_p_le_one_mul_p h a.g) hgb (by rwa [Nat.one_mul])
  next he => exact reduce_mul_lt h hga hgb (Nat.not_lt.1 he)

theorem sqrElem_g_lt (h : c.wellFormed = true) (ha : a.bounded c = true) : (sqrElem c a).g < 2 * c.p := by
  obtain ⟨-, -, hga⟩ := bounded_iff.1 ha
  have hcap := two_le_cap h
  rw [sqrElem_eq]
  split
  · exact reduce_mul_lt h (mod_p_le_one_mul_p h a.g) (mod_p_le_one_mul_p h a.g) (by omega)
  next he => exact reduce_mul_lt h hga hga (Nat.not_lt.1 he)

/-- Within capacity both compute the reduction of the same product (42_arith.md R188). -/
theorem sqrElem_eq_mulElem (he : a.e * a.e ≤ c.cap) : sqrElem c a = mulElem c a a := by
  rw [sqrElem_eq, mulElem_eq, if_neg (Nat.not_lt.2 he), if_neg (Nat.not_lt.2 he)]

/-! ## Products with a scalar -/

theorem imulMagnitude_eq (c : Cfg) (a : FElem) (m : Nat) :
    imulMagnitude c a m =
      if c.shape = .pm ∨ c.shape = .gm then ⟨reduce c (a.g * m), 2⟩
      else if a.e * m ≤ c.cap then ⟨a.g * m, max 1 (a.e * m)⟩
      else if a.e * 2 > c.cap then ⟨reduce c (a.g % c.p * reduce c (m * c.r2)), 2⟩
      else ⟨reduce c (a.g * reduce c (m * c.r2)), 2⟩ := by
  refine if_ctx_congr (isShapeBased_iff c.shape) (fun _ => rfl) fun hs => ?_
  rw [toResidue_eq, if_neg hs, mulElem_eq]

theorem imulElem_eq (c : Cfg) (a : FElem) (k : ℤ) :
    imulElem c a k = if k < 0 then negElem c (imulMagnitude c a k.natAbs) else imulMagnitude c a k.natAbs := rfl

/-- Each path of R199 multiplies the field value by the scalar (42_arith.md R199). -/
theorem val_imulMagnitude (h : c.wellFormed = true) (a : FElem) {m : Nat} (hm : m < c.p) :
    val c (imulMagnitude c a m).g = m * val c a.g % c.p := by
  unfold imulMagnitude
  split
  next hs =>
    have hvm : val c m = m := (if_pos hs).trans (Nat.mod_eq_of_lt hm)
    rw [val_reduce_mul h, hvm, Nat.mul_comm]
  next =>
    split
    · exact val_mul_nat c a.g m
    · rw [val_mulElem h, val_toResidue h hm, Nat.mul_comm]

/-- In a Montgomery variant the scalar 0 gives the zero element, whatever the operand (42_arith.md R199). -/
theorem imulElem_zero (hs : c.shape.isShapeBased = false) (a : FElem) : imulElem c a 0 = ⟨0, 1⟩ := by
  simp [imulElem, imulMagnitude, hs]

theorem natAbs_lt_p_of_scalarFits (h : c.wellFormed = true) {k : ℤ} (hk : scalarFits k = true) : k.natAbs < c.p := by
  have hp := p_gt_128 h
  simp only [scalarFits, Bool.and_eq_true, decide_eq_true_eq] at hk
  omega

/-- The sign of the scalar is applied by a negation (42_arith.md R199). -/
theorem val_imulElem (h : c.wellFormed = true) (ha : a.bounded c = true) {k : ℤ} (hk : scalarFits k = true) :
    (val c (imulElem c a k).g : ℤ) = k * val c a.g % c.p := by
  have hm := natAbs_lt_p_of_scalarFits h hk
  have hmag : (val c (imulMagnitude c a k.natAbs).g : ℤ) ≡ |k| * val c a.g [ZMOD c.p] := by
    rw [val_imulMagnitude h a hm, Int.abs_eq_natAbs]
    push_cast
    exact Int.mod_modEq _ _
  refine natCast_val_eq_emod h ?_
  rw [imulElem_eq]
  split
  next hneg =>
    have hsum := val_negElem_add (imulMagnitude_bounded h ha hm)
    set r := imulMagnitude c a k.natAbs
    have hzero : (val c (negElem c r).g + val c r.g : ℤ) ≡ 0 [ZMOD c.p] := by exact_mod_cast hsum
    calc (val c (negElem c r).g : ℤ) = val c (negElem c r).g + val c r.g - val c r.g := by ring
      _ ≡ 0 - |k| * val c a.g [ZMOD c.p] := hzero.sub hmag
      _ = k * val c a.g := by rw [abs_of_neg hneg]; ring
  next hpos => rwa [abs_of_nonneg (not_lt.1 hpos)] at hmag

/-! ## Halves and canonical representatives -/

/-- Doubling a half gives the value back, or the value plus `p`, which is odd (42_arith.md R203). -/
theorem halfElem_g_mul_two (h : c.wellFormed = true) (a : FElem) : (halfElem c a).g * 2 % c.p = a.g % c.p := by
  have hp := p_odd h
  unfold halfElem
  split
  · rw [Nat.div_mul_cancel (by omega)]
  · rw [Nat.div_mul_cancel (by omega), Nat.add_mod_right]

theorem two_mul_val_halfElem (h : c.wellFormed = true) (a : FElem) :
    2 * val c (halfElem c a).g % c.p = val c a.g := by
  rw [← val_mul_nat, val_eq_iff h]
  exact halfElem_g_mul_two h a

theorem fullReduce_canonical (h : c.wellFormed = true) (a : FElem) : (fullReduce c a).canonical c = true := by
  have hlt : a.g % c.p < c.p := Nat.mod_lt _ (p_prime h).pos
  simp [FElem.canonical, fullReduce, hlt]

end

/-! ## Commands with valid F sources -/

section

variable {s : State} {a b : FIdx}

/-- The operand check of a command with one F source passes. -/
theorem next_checked_f (go : State) (ha : s.FValid a) :
    (.next (s.checked [.f a] go) : Host.Outcome State Fault Refusal) = .next go :=
  congrArg Host.Outcome.next (checked_of_valid s go (List.forall_mem_singleton.2 ha))

/-- The operand check of a command with two F sources passes. -/
theorem next_checked_ff (go : State) (ha : s.FValid a) (hb : s.FValid b) :
    (.next (s.checked [.f a, .f b] go) : Host.Outcome State Fault Refusal) = .next go :=
  congrArg Host.Outcome.next
    (checked_of_valid s go (List.forall_mem_cons.2 ⟨ha, List.forall_mem_singleton.2 hb⟩))

/-- What a readable F register holds in a state that meets the invariant (10_state.md R33). -/
theorem felem_bounded_of_inv (hs : s.Inv) (ha : s.FValid a) : (s.felem a).bounded s.cfg = true :=
  (filesOk_of_inv hs).felem_bounded ha

end

end Sys2Proof.Machine

namespace Sys2Proof.Proofs

open Sys2Proof Sys2Proof.Machine

/-- Settles O43: the values add, and the capacity check keeps the value of the sum. -/
theorem addWritesTheSum : Obligations.AddWritesTheSum := by
  intro s d a b ha hb
  refine ⟨_, next_checked_ff _ ha hb, setF_complete_writesF s d _, fun hs => ?_⟩
  rw [complete_f, setF_read_same]
  exact ⟨addElem_bounded (wellFormed_of_inv hs) (felem_bounded_of_inv hs ha) (felem_bounded_of_inv hs hb),
    val_addElem _ _ _⟩

/-- Settles O44: `k*p` stands for 0, and `k` is at or above the excess. -/
theorem negWritesTheNegative : Obligations.NegWritesTheNegative := by
  intro s d a ha
  refine ⟨_, next_checked_f _ ha, setF_complete_writesF s d _, fun hs => ?_⟩
  have hb := felem_bounded_of_inv hs ha
  rw [complete_f, setF_read_same]
  exact ⟨g_le_nextpow2_mul_p hb, negElem_bounded (wellFormed_of_inv hs) _, val_negElem_add hb⟩

/-- Settles O45: SUB is the addition of the negative. -/
theorem subWritesTheDifference : Obligations.SubWritesTheDifference := by
  intro s d a b ha hb
  refine ⟨_, next_checked_ff _ ha hb, setF_complete_writesF s d _, ?_⟩
  rw [complete_f, setF_read_same]
  refine ⟨subElem_e, fun hs => ?_⟩
  have hwf := wellFormed_of_inv hs
  exact ⟨subElem_bounded hwf (felem_bounded_of_inv hs ha) _, val_subElem_add hwf (felem_bounded_of_inv hs hb)⟩

/-- Settles O46: the check keeps the operand of the reduction within its contract, and the value of factor A. -/
theorem mulWritesTheProduct : Obligations.MulWritesTheProduct := by
  intro s d a b ha hb
  rw [← mulElem_eq]
  refine ⟨_, next_checked_ff _ ha hb, setF_complete_writesF s d _, fun hs => ?_⟩
  have hwf := wellFormed_of_inv hs
  rw [complete_f, setF_read_same]
  exact ⟨mulElem_g_lt hwf (felem_bounded_of_inv hs ha) (felem_bounded_of_inv hs hb), val_mulElem hwf _ _⟩

/-- Settles O47: as for a product, with both factors reduced when the check fires. -/
theorem sqrWritesTheSquare : Obligations.SqrWritesTheSquare := by
  intro s d a ha
  rw [← sqrElem_eq]
  refine ⟨_, next_checked_f _ ha, setF_complete_writesF s d _, fun hs => ?_⟩
  have hwf := wellFormed_of_inv hs
  rw [complete_f, setF_read_same]
  exact ⟨sqrElem_g_lt hwf (felem_bounded_of_inv hs ha), val_sqrElem hwf _⟩

/-- Settles O48: both have the value of the product, and the example of R188 is evaluated. -/
theorem sqrAgreesWithMul : Obligations.SqrAgreesWithMul := by
  refine ⟨fun c a h _ => ⟨?_, rfl, rfl, sqrElem_eq_mulElem⟩, by decide, by decide⟩
  rw [val_sqrElem h, val_mulElem h]

/-- Settles O49: the three paths of R199 and the negation each follow their formula. -/
theorem imulWritesTheMultiple : Obligations.ImulWritesTheMultiple := by
  intro s d a k ha
  refine ⟨_, imulMagnitude s.cfg (s.felem a) k.natAbs, next_checked_f _ ha, imulMagnitude_eq _ _ _,
    setF_complete_writesF s d (imulElem s.cfg (s.felem a) k), ?_⟩
  rw [complete_f, setF_read_same]
  refine ⟨?_, fun hs hk => ?_⟩
  · rintro rfl hshape
    exact imulElem_zero ((not_isShapeBased_iff _).2 hshape) _
  · have hwf := wellFormed_of_inv hs
    have hb := felem_bounded_of_inv hs ha
    exact ⟨imulElem_bounded hwf hb hk, val_imulElem hwf hb hk⟩

/-- Settles O50: twice the half is the element or the element plus `p`. -/
theorem halfAndFredWriteTheirValues : Obligations.HalfAndFredWriteTheirValues := by
  intro s d a ha
  refine ⟨⟨_, next_checked_f _ ha, setF_complete_writesF s d (halfElem s.cfg (s.felem a)), fun hs => ?_⟩,
    ⟨_, next_checked_f _ ha, setF_complete_writesF s d (fullReduce s.cfg (s.felem a)), fun hs => ?_⟩⟩
  · rw [complete_f, setF_read_same]
    exact ⟨halfElem_bounded (felem_bounded_of_inv hs ha), two_mul_val_halfElem (wellFormed_of_inv hs) _⟩
  · rw [complete_f, setF_read_same]
    exact ⟨fullReduce_canonical (wellFormed_of_inv hs) _, val_mod _ _⟩

/-- Settles O51: register values agree modulo `p` exactly where their field values agree. -/
theorem iszAndEquTestFieldValues : Obligations.IszAndEquTestFieldValues := by
  intro s a b ha
  refine ⟨⟨_, next_checked_f _ ha, setT_complete_writesT s _, fun hs => ?_⟩,
    fun hb => ⟨_, next_checked_ff _ ha hb, setT_complete_writesT s _, fun hs => ?_⟩⟩
  · rw [complete_tFlag, setT_tFlag, isZeroFlag, decide_eq_true_iff, val_eq_zero_iff (wellFormed_of_inv hs)]
  · rw [complete_tFlag, setT_tFlag, equalFlag, decide_eq_true_iff, val_eq_iff (wellFormed_of_inv hs)]

end Sys2Proof.Proofs
end

section
/-! SUPPORT for the exponentiation (43_exponent.md), and PROOFS of its statements. The field value turns the products of
the engine into sums of exponents, so the table holds the powers of the base and each round appends one window to the
exponent. -/

namespace Sys2Proof.Machine

section

variable {c : Cfg} {a b : FElem} {v i j : Nat}

/-! ## Powers of a field value -/

theorem val_eq_pow_one (h : c.wellFormed = true) (b : FElem) : val c b.g = val c b.g ^ 1 % c.p := by
  rw [pow_one, val_mod_p h]

/-- The exponents of two powers add up in their product (42_arith.md R181). -/
theorem val_mulElem_pow (h : c.wellFormed = true) (ha : val c a.g = v ^ i % c.p) (hb : val c b.g = v ^ j % c.p) :
    val c (mulElem c a b).g = v ^ (i + j) % c.p := by
  rw [val_mulElem h, ha, hb, ← Nat.mul_mod, pow_add]

/-- A squaring doubles the exponent (42_arith.md R186). -/
theorem val_sqrElem_pow (h : c.wellFormed = true) (ha : val c a.g = v ^ i % c.p) :
    val c (sqrElem c a).g = v ^ (2 * i) % c.p := by
  rw [val_sqrElem h, ha, ← Nat.mul_mod, ← pow_add, two_mul]

/-! ## The power table (43_exponent.md R221) -/

/-- Each entry of the table is one power of the base past the entry before it. -/
theorem val_powTableFrom (h : c.wellFormed = true) (b : FElem) {k : Nat} {last : FElem}
    (hlast : val c last.g = val c b.g ^ i % c.p) (hj : j < k) :
    val c (tableEntry (powTableFrom c b k last) j).g = val c b.g ^ (j + (i + 1)) % c.p := by
  induction k generalizing last i j with
  | zero => omega
  | succ k ih =>
    have hnext := val_mulElem_pow h hlast (val_eq_pow_one h b)
    cases j with
    | zero => rwa [Nat.zero_add]
    | succ j =>
      rw [show j + 1 + (i + 1) = j + (i + 1 + 1) by omega]
      exact ih hnext (by omega)

/-- Entry `w` of the table stands for the power `w` of the base. -/
theorem val_tableEntry_powTable (h : c.wellFormed = true) (b : FElem) {w : Nat} (hw : w < 16) :
    val c (tableEntry (powTable c b) w).g = val c b.g ^ w % c.p := by
  match w with
  | 0 => exact (val_oneElem h).trans (Nat.mod_eq_of_lt (p_prime h).one_lt).symm
  | 1 => exact val_eq_pow_one h b
  | j + 2 => exact val_powTableFrom (k := 14) h b (val_eq_pow_one h b) (by omega)

/-! ## The windows of the exponent (43_exponent.md R220) -/

theorem window_lt (n i : Nat) : window n i < 16 := Nat.mod_lt _ (by decide)

/-- Window `i` continues the windows above it. -/
theorem div_eq_windows_append (n i : Nat) : n / 2 ^ (4 * i) = 16 * (n / 2 ^ (4 * (i + 1))) + window n i := by
  rw [Nat.mul_succ, pow_add, ← Nat.div_div_eq_div_mul]
  exact (Nat.div_add_mod _ 16).symm

/-- No bit of the exponent is above the top window. -/
theorem div_top_eq_zero (n : Nat) : n / 2 ^ (4 * ((bitlength n + 3) / 4)) = 0 :=
  Nat.div_eq_of_lt ((bitlength_le_iff n _).1 (by omega))

/-- The top window is all that the exponent has from there on. -/
theorem window_top (n : Nat) : window n (windowCount n - 1) = n / 2 ^ (4 * (windowCount n - 1)) := by
  rw [window, windowCount, Nat.add_sub_cancel, div_top_eq_zero]

/-! ## The main loop (43_exponent.md R222) -/

/-- A round appends a window to the exponent. -/
theorem val_powRound (h : c.wellFormed = true) (b : FElem) {w : Nat} (hw : w < 16) {acc : FElem}
    (hacc : val c acc.g = val c b.g ^ i % c.p) :
    val c (powRound c (powTable c b) w acc).g = val c b.g ^ (16 * i + w) % c.p := by
  have hfour := val_sqrElem_pow h (val_sqrElem_pow h (val_sqrElem_pow h (val_sqrElem_pow h hacc)))
  rw [show 16 * i = 2 * (2 * (2 * (2 * i))) by omega]
  exact val_mulElem_pow h hfour (val_tableEntry_powTable h b hw)

/-- The loop goes from the windows at or above `i` to the whole exponent. -/
theorem val_powLoop (h : c.wellFormed = true) (b : FElem) (n : Nat) {acc : FElem}
    (hacc : val c acc.g = val c b.g ^ (n / 2 ^ (4 * i)) % c.p) :
    val c (powLoop c (powTable c b) n i acc).g = val c b.g ^ n % c.p := by
  induction i generalizing acc with
  | zero => rwa [Nat.mul_zero, pow_zero, Nat.div_one] at hacc
  | succ i ih =>
    refine ih ?_
    rw [div_eq_windows_append n i]
    exact val_powRound h b (window_lt n i) hacc

/-- The windowed algorithm computes the canonical power of the field value (43_exponent.md R224). -/
theorem powElem_eq (h : c.wellFormed = true) (b : FElem) (n : Nat) :
    powElem c b n = ⟨rep c (val c b.g ^ n % c.p), 1⟩ := by
  have htop := val_tableEntry_powTable h b (window_lt n (windowCount n - 1))
  have hloop := val_powLoop h b n (htop.trans (by rw [window_top]))
  rw [← hloop, rep_val h]
  rfl

/-! ## The work of a power (43_exponent.md R226) -/

/-- An entry of the table takes one multiplication. -/
theorem powTableCounted_eq (c : Cfg) (b : FElem) (k : Nat) (last : FElem) (work : Work) :
    powTableCounted c b k (last, work) = (powTableFrom c b k last, ⟨work.sqr, work.mul + k⟩) := by
  induction k generalizing last work with
  | zero => rfl
  | succ k ih =>
    rw [powTableCounted, mulCounted, ih, powTableFrom]
    simp only [Nat.add_assoc, Nat.add_comm 1]

/-- A round takes four squarings and one multiplication, whatever its window. -/
theorem powLoopCounted_eq (c : Cfg) (tb : List FElem) (n i : Nat) (acc : FElem) (work : Work) :
    powLoopCounted c tb n i (acc, work) = (powLoop c tb n i acc, ⟨work.sqr + 4 * i, work.mul + i⟩) := by
  induction i generalizing acc work with
  | zero => rfl
  | succ i ih =>
    have hsqr : work.sqr + 1 + 1 + 1 + 1 + 4 * i = work.sqr + 4 * (i + 1) := by omega
    have hmul : work.mul + 1 + i = work.mul + (i + 1) := by omega
    simp only [powLoopCounted, sqrCounted, mulCounted, ih, hsqr, hmul]
    rfl

end

/-! ## The command with its sources valid -/

/-- POW with both its sources valid writes the power and completes (43_exponent.md R225). -/
theorem exec_pow {s : State} (d : FIdx) {a : FIdx} {b : XIdx} (ha : s.FValid a) (hb : s.XValid b) :
    exec (.pow d a b) s = .next (s.setF d (powElem s.cfg (s.felem a) (s.xval b))).complete :=
  congrArg Host.Outcome.next
    (checked_of_valid s _ (List.forall_mem_cons.2 ⟨ha, List.forall_mem_singleton.2 hb⟩))

end Sys2Proof.Machine

namespace Sys2Proof.Proofs

open Sys2Proof Sys2Proof.Machine

/-- Settles O52: the loop ends with the power of the field value, and the last reduction makes it canonical. -/
theorem powWritesTheCanonicalPower : Obligations.PowWritesTheCanonicalPower := by
  intro s d a b ha hb
  refine ⟨_, exec_pow d ha hb, setF_complete_writesF s d _, fun hs => ?_⟩
  rw [complete_f, setF_read_same]
  exact powElem_eq (wellFormed_of_inv hs) _ _

/-- Settles O53: the table takes 14 multiplications, and each window below the top one takes a round. -/
theorem powWorkDependsOnBitLengthOnly : Obligations.PowWorkDependsOnBitLengthOnly := by
  intro c b n
  simp only [powCounted, powTableCounted_eq, powLoopCounted_eq, windowCount, Nat.add_sub_cancel, Nat.zero_add]
  rfl

end Sys2Proof.Proofs
end

section
/-! SUPPORT for inversion and the square root (44_inv_sqrt.md), and PROOFS of their statements. The operations of the
engine are those of the field of `p` elements, where Euler's criterion says which roots the two formulas take. -/

namespace Sys2Proof.Machine

/-- Atkin's `v = (2a)^((p-5)/8)` (44_inv_sqrt.md R244). -/
def atkinV {p : ℕ} (x : ZMod p) : ZMod p := (2 * x) ^ ((p - 5) / 8)

section

variable {p : ℕ} [Fact p.Prime] {x : ZMod p}

/-! ## Powers and roots modulo a prime (93_implementation_defined.md G4 to G6) -/

/-- Euler's criterion for a non-square (93_implementation_defined.md G5). -/
theorem pow_half_of_not_isSquare (hx : ¬IsSquare x) : x ^ (p / 2) = -1 := by
  have hne : x ≠ 0 := by
    rintro rfl
    exact hx .zero
  exact (ZMod.pow_div_two_eq_neg_one_or_one p hne).resolve_left (mt (ZMod.euler_criterion p hne).2 hx)

/-- The power `(p+1)/4` squares to the element times the symbol of Euler's criterion (44_inv_sqrt.md R245). -/
theorem pow_quarter_sq (hp : p % 4 = 3) (x : ZMod p) : (x ^ ((p + 1) / 4)) ^ 2 = x ^ (p / 2) * x := by
  rw [← pow_mul, ← pow_succ]
  congr 1
  omega

/-- A square is given back by the square of its power `(p+1)/4` (44_inv_sqrt.md R245). -/
theorem pow_quarter_sq_of_isSquare (hp : p % 4 = 3) (hne : x ≠ 0) (hx : IsSquare x) : (x ^ ((p + 1) / 4)) ^ 2 = x := by
  rw [pow_quarter_sq hp, (ZMod.euler_criterion p hne).1 hx, one_mul]

/-- A non-square is negated (44_inv_sqrt.md R245). -/
theorem pow_quarter_sq_of_not_isSquare (hp : p % 4 = 3) (hx : ¬IsSquare x) : (x ^ ((p + 1) / 4)) ^ 2 = -x := by
  rw [pow_quarter_sq hp, pow_half_of_not_isSquare hx, neg_one_mul]

/-- In Atkin's class 2 is a non-square, so `i = 2*a*v^2` is a root of -1 for a square `a` (44_inv_sqrt.md R244). -/
theorem atkin_i_sq (hp : p % 8 = 5) (hne : x ≠ 0) (hx : IsSquare x) : (2 * x * atkinV x ^ 2) ^ 2 = -1 := by
  have htwo : ¬IsSquare (2 : ZMod p) := by
    rw [ZMod.exists_sq_eq_two_iff (by rintro rfl; omega)]
    omega
  calc (2 * x * atkinV x ^ 2) ^ 2 = (2 * x) ^ (2 + 4 * ((p - 5) / 8)) := by rw [atkinV]; ring
    _ = 2 ^ (p / 2) * x ^ (p / 2) := by rw [← mul_pow]; congr 1; omega
    _ = -1 := by rw [pow_half_of_not_isSquare htwo, (ZMod.euler_criterion p hne).1 hx, mul_one]

/-- Atkin's value is a root of a non-zero square (44_inv_sqrt.md R244): with `i^2 = -1`, `(i-1)^2` is `-2*i`. -/
theorem atkin_sq (hp : p % 8 = 5) (hne : x ≠ 0) (hx : IsSquare x) :
    (x * atkinV x * (2 * x * atkinV x ^ 2 - 1)) ^ 2 = x := by
  have hi := atkin_i_sq hp hne hx
  generalize atkinV x = v at hi ⊢
  linear_combination (x ^ 2 * v ^ 2 - x) * hi

/-- A factor that is a non-zero square does not bear on being a square (44_inv_sqrt.md R251). -/
theorem isSquare_mul_mul_self_iff {y : ZMod p} (hy : y ≠ 0) : IsSquare (x * (y * y)) ↔ IsSquare x := by
  refine ⟨fun hsq => ?_, fun hx => hx.mul (.mul_self y)⟩
  rw [← mul_div_cancel_right₀ x (mul_ne_zero hy hy)]
  exact hsq.div (.mul_self y)

end

section

variable {c : Cfg} {a b : FElem}

/-! ## The field value as an element of the field -/

/-- The field value of a register value (10_state.md R36), in the field of integers modulo `p`. -/
def fieldVal (c : Cfg) (a : FElem) : ZMod c.p := (val c a.g : ZMod c.p)

theorem fieldVal_def (c : Cfg) (a : FElem) : (val c a.g : ZMod c.p) = fieldVal c a := rfl

theorem natCast_eq_zero_iff_mod (c : Cfg) (n : ℕ) : (n : ZMod c.p) = 0 ↔ n % c.p = 0 := by
  rw [ZMod.natCast_eq_zero_iff, Nat.dvd_iff_mod_eq_zero]

theorem natCast_eq_one_iff_mod (h : c.wellFormed = true) (n : ℕ) : (n : ZMod c.p) = 1 ↔ n % c.p = 1 := by
  rw [← Nat.cast_one, ZMod.natCast_eq_natCast_iff', Nat.mod_eq_of_lt (p_prime h).one_lt]

theorem fieldVal_eq_zero_iff (h : c.wellFormed = true) : fieldVal c a = 0 ↔ val c a.g = 0 := by
  rw [fieldVal, natCast_eq_zero_iff_mod, val_mod_p h]

theorem fieldVal_of_val_eq_mod {n : ℕ} (ha : val c a.g = n % c.p) : fieldVal c a = n := by
  rw [fieldVal, ha, ZMod.natCast_mod]

theorem fieldVal_mulElem (h : c.wellFormed = true) (a b : FElem) :
    fieldVal c (mulElem c a b) = fieldVal c a * fieldVal c b := by
  rw [fieldVal_of_val_eq_mod (val_mulElem h a b), Nat.cast_mul, fieldVal_def, fieldVal_def]

theorem fieldVal_sqrElem (h : c.wellFormed = true) (a : FElem) :
    fieldVal c (sqrElem c a) = fieldVal c a * fieldVal c a := by
  rw [fieldVal_of_val_eq_mod (val_sqrElem h a), Nat.cast_mul, fieldVal_def]

theorem fieldVal_addElem (c : Cfg) (a b : FElem) : fieldVal c (addElem c a b) = fieldVal c a + fieldVal c b := by
  rw [fieldVal_of_val_eq_mod (val_addElem c a b), Nat.cast_add, fieldVal_def, fieldVal_def]

theorem fieldVal_oneElem (h : c.wellFormed = true) : fieldVal c (oneElem c) = 1 := by
  rw [fieldVal, val_oneElem h, Nat.cast_one]

theorem fieldVal_subElem (h : c.wellFormed = true) (a : FElem) (hb : b.bounded c = true) :
    fieldVal c (subElem c a b) = fieldVal c a - fieldVal c b := by
  have hsum := fieldVal_of_val_eq_mod (val_subElem_add (a := a) h hb).symm
  rw [hsum, Nat.cast_add, fieldVal_def, fieldVal_def, add_sub_cancel_right]

theorem fieldVal_fullReduce (c : Cfg) (a : FElem) : fieldVal c (fullReduce c a) = fieldVal c a :=
  congrArg Nat.cast (val_mod c a.g)

/-- The field value of a power (43_exponent.md R224). -/
theorem val_powElem (h : c.wellFormed = true) (b : FElem) (n : ℕ) :
    val c (powElem c b n).g = val c b.g ^ n % c.p := by
  rw [powElem_eq h, val_rep h, Nat.mod_mod]

theorem val_powElem_eq_zero (h : c.wellFormed = true) (hb : val c b.g = 0) {n : ℕ} (hn : n ≠ 0) :
    val c (powElem c b n).g = 0 := by
  rw [val_powElem h, hb, zero_pow hn, Nat.zero_mod]

theorem fieldVal_powElem (h : c.wellFormed = true) (b : FElem) (n : ℕ) :
    fieldVal c (powElem c b n) = fieldVal c b ^ n := by
  rw [fieldVal_of_val_eq_mod (val_powElem h b n), Nat.cast_pow, fieldVal_def]

/-! ## Canonical results -/

/-- A power ends with a full reduction (43_exponent.md R223). -/
theorem powElem_canonical (h : c.wellFormed = true) (b : FElem) (n : ℕ) : (powElem c b n).canonical c = true :=
  fullReduce_canonical h _

/-- The only canonical zero is `(0, 1)`. -/
theorem eq_zero_of_canonical (h : c.wellFormed = true) (ha : a.canonical c = true) (hzero : val c a.g = 0) :
    a = ⟨0, 1⟩ := by
  obtain ⟨hlt, he⟩ : a.g < c.p ∧ a.e = 1 := by simpa [FElem.canonical] using ha
  have hg : a.g = 0 := by rw [← Nat.mod_eq_of_lt hlt, (val_eq_zero_iff h a.g).1 hzero]
  exact congrArg₂ FElem.mk hg he

/-! ## Inversion (44_inv_sqrt.md R240) -/

/-- Fermat's little theorem (93_implementation_defined.md G4). -/
theorem val_invElem_mul (h : c.wellFormed = true) (hne : val c b.g ≠ 0) :
    val c (invElem c b).g * val c b.g % c.p = 1 := by
  have := Fact.mk (p_prime h)
  have hp := p_gt_128 h
  rw [← natCast_eq_one_iff_mod h, Nat.cast_mul, fieldVal_def, fieldVal_def, invElem, fieldVal_powElem h, ← pow_succ,
    show c.p - 2 + 1 = c.p - 1 by omega]
  exact ZMod.pow_card_sub_one_eq_one (mt (fieldVal_eq_zero_iff h).1 hne)

/-! ## The square root (44_inv_sqrt.md R243 to R245) -/

/-- The value of SQRT in a build of a supported class (44_inv_sqrt.md R243). -/
def sqrtElem (c : Cfg) (a : FElem) : FElem :=
  if c.mod8 = 5 then sqrtAtkin c a else powElem c a ((c.p + 1) / 4)

theorem sqrtElem_of_atkin (h5 : c.mod8 = 5) (a : FElem) : sqrtElem c a = sqrtAtkin c a := if_pos h5

theorem sqrtElem_of_not_atkin (h5 : c.mod8 ≠ 5) (a : FElem) : sqrtElem c a = powElem c a ((c.p + 1) / 4) := if_neg h5

theorem p_mod_eight_of_atkin (h : c.wellFormed = true) (h5 : c.mod8 = 5) : c.p % 8 = 5 := by rw [← mod8_eq h, h5]

/-- The supported classes beside Atkin's are those of `p = 3 (mod 4)`, since `p` is odd (44_inv_sqrt.md R245). -/
theorem p_mod_four_of_supported (h : c.wellFormed = true) (h1 : c.mod8 ≠ 1) (h5 : c.mod8 ≠ 5) : c.p % 4 = 3 := by
  have hodd := p_odd h
  rw [mod8_eq h] at h1 h5
  omega

/-- Both formulas end with a full reduction (44_inv_sqrt.md R244, R245). -/
theorem sqrtElem_canonical (h : c.wellFormed = true) (a : FElem) : (sqrtElem c a).canonical c = true := by
  unfold sqrtElem
  split
  · exact fullReduce_canonical h _
  · exact powElem_canonical h _ _

/-- The steps of Atkin's algorithm, each taken in the field (44_inv_sqrt.md R244). -/
theorem fieldVal_sqrtAtkin (h : c.wellFormed = true) (a : FElem) :
    fieldVal c (sqrtAtkin c a) =
      fieldVal c a * atkinV (fieldVal c a) * (2 * fieldVal c a * atkinV (fieldVal c a) ^ 2 - 1) := by
  simp only [sqrtAtkin, fieldVal_fullReduce, fieldVal_mulElem h, fieldVal_subElem h _ (oneElem_bounded h),
    fieldVal_powElem h, fieldVal_addElem, fieldVal_oneElem h, ← two_mul]
  rw [← atkinV]
  ring

/-- Atkin's formula on integers, with `v` the remainder of its power (44_inv_sqrt.md R244). -/
theorem val_sqrtAtkin (h : c.wellFormed = true) (a : FElem) {v : ℕ}
    (hv : v = (2 * val c a.g) ^ ((c.p - 5) / 8) % c.p) :
    (val c (sqrtAtkin c a).g : ℤ) = val c a.g * v * (2 * val c a.g * v ^ 2 - 1) % (c.p : ℤ) := by
  have hcast : (v : ZMod c.p) = atkinV (fieldVal c a) := by
    rw [hv, ZMod.natCast_mod, Nat.cast_pow, Nat.cast_mul, Nat.cast_ofNat, fieldVal_def, atkinV]
  refine natCast_val_eq_emod h ((ZMod.intCast_eq_intCast_iff _ _ _).1 ?_)
  push_cast [hcast, fieldVal_def]
  exact fieldVal_sqrtAtkin h a

theorem val_sqrtElem_eq_zero (h : c.wellFormed = true) (ha : val c a.g = 0) : val c (sqrtElem c a).g = 0 := by
  unfold sqrtElem
  split
  · rw [← fieldVal_eq_zero_iff h, fieldVal_sqrtAtkin h, (fieldVal_eq_zero_iff h).2 ha, zero_mul, zero_mul]
  · have hp := p_gt_128 h
    exact val_powElem_eq_zero h ha (by omega)

/-! ## Non-zero squares (44_inv_sqrt.md R248) -/

/-- A non-zero square modulo `p`, said in the field. -/
theorem nonzeroSquare_iff (h : c.wellFormed = true) (n : ℕ) :
    NonzeroSquare c n ↔ (n : ZMod c.p) ≠ 0 ∧ IsSquare (n : ZMod c.p) := by
  have := NeZero.mk (p_prime h).ne_zero
  refine and_congr (not_congr (natCast_eq_zero_iff_mod c n).symm) ⟨?_, ?_⟩
  · rintro ⟨y, hy⟩
    exact ⟨y, by rw [← Nat.cast_mul, ZMod.natCast_eq_natCast_iff', hy]⟩
  · rintro ⟨y, hy⟩
    obtain ⟨m, rfl⟩ := ZMod.natCast_zmod_surjective y
    exact ⟨m, by rw [← ZMod.natCast_eq_natCast_iff', Nat.cast_mul, hy]⟩

theorem nonzeroSquare_val_iff (h : c.wellFormed = true) (a : FElem) :
    NonzeroSquare c (val c a.g) ↔ fieldVal c a ≠ 0 ∧ IsSquare (fieldVal c a) := nonzeroSquare_iff h _

/-- The root of a non-zero square, in each supported class (44_inv_sqrt.md R244, R245). -/
theorem fieldVal_sqrtElem_sq (h : c.wellFormed = true) (h1 : c.mod8 ≠ 1) (ha : NonzeroSquare c (val c a.g)) :
    fieldVal c (sqrtElem c a) ^ 2 = fieldVal c a := by
  have := Fact.mk (p_prime h)
  obtain ⟨hne, hsq⟩ := (nonzeroSquare_val_iff h a).1 ha
  unfold sqrtElem
  split
  next h5 =>
    rw [fieldVal_sqrtAtkin h]
    exact atkin_sq (p_mod_eight_of_atkin h h5) hne hsq
  next h5 =>
    rw [fieldVal_powElem h]
    exact pow_quarter_sq_of_isSquare (p_mod_four_of_supported h h1 h5) hne hsq

theorem val_sqrtElem_sq (h : c.wellFormed = true) (h1 : c.mod8 ≠ 1) (ha : NonzeroSquare c (val c a.g)) :
    val c (sqrtElem c a).g ^ 2 % c.p = val c a.g := by
  have hsq := fieldVal_sqrtElem_sq h h1 ha
  rwa [fieldVal, fieldVal, ← Nat.cast_pow, ZMod.natCast_eq_natCast_iff', val_mod_p h] at hsq

/-- With `p = 3 (mod 4)` the value for any other element is a root of its negative (44_inv_sqrt.md R245). -/
theorem val_sqrtElem_sq_add (h : c.wellFormed = true) (h1 : c.mod8 ≠ 1) (h5 : c.mod8 ≠ 5)
    (ha : ¬NonzeroSquare c (val c a.g)) : (val c (sqrtElem c a).g ^ 2 + val c a.g) % c.p = 0 := by
  have := Fact.mk (p_prime h)
  by_cases hzero : val c a.g = 0
  · rw [val_sqrtElem_eq_zero h hzero, hzero, zero_pow two_ne_zero, Nat.zero_mod]
  · have hnsq : ¬IsSquare (fieldVal c a) := fun hsq =>
      ha ((nonzeroSquare_val_iff h a).2 ⟨mt (fieldVal_eq_zero_iff h).1 hzero, hsq⟩)
    rw [← natCast_eq_zero_iff_mod, Nat.cast_add, Nat.cast_pow, fieldVal_def, fieldVal_def,
      sqrtElem_of_not_atkin h5, fieldVal_powElem h,
      pow_quarter_sq_of_not_isSquare (p_mod_four_of_supported h h1 h5) hnsq, neg_add_cancel]

/-! ## The quadratic-residue test (44_inv_sqrt.md R248) -/

/-- The symbol is computed by Euler's criterion (93_implementation_defined.md G6). -/
theorem jacobi_eq_one_iff (h : c.wellFormed = true) (x : ℕ) : jacobi x c.p = 1 ↔ NonzeroSquare c x := by
  have := Fact.mk (p_prime h)
  have hodd := p_odd h
  have hpow : powMod x ((c.p - 1) / 2) c.p = 1 ↔ (x : ZMod c.p) ^ (c.p / 2) = 1 := by
    rw [powMod_eq, show (c.p - 1) / 2 = c.p / 2 by omega, ← Nat.cast_pow, natCast_eq_one_iff_mod h]
  simp only [nonzeroSquare_iff h, jacobi, ← natCast_eq_zero_iff_mod, hpow]
  by_cases hx : (x : ZMod c.p) = 0
  · simp [hx]
  · simp [hx, ZMod.euler_criterion c.p hx]

/-- The test looks at the field value only: the value out of residue form is congruent to it (44_inv_sqrt.md R248). -/
theorem residueFlag_iff (h : c.wellFormed = true) (b : FElem) :
    residueFlag c b = true ↔ NonzeroSquare c (val c b.g) := by
  rw [residueFlag, decide_eq_true_iff, jacobi_eq_one_iff h, ← fromResidue_mod_p h, NonzeroSquare, NonzeroSquare,
    Nat.mod_mod]

/-- Multiplication by a non-zero square keeps non-zero squares and all other elements (44_inv_sqrt.md R251). -/
theorem nonzeroSquare_mulElem_sqrElem_iff (h : c.wellFormed = true) (hb : val c b.g ≠ 0) :
    NonzeroSquare c (val c (mulElem c a (sqrElem c b)).g) ↔ NonzeroSquare c (val c a.g) := by
  have := Fact.mk (p_prime h)
  have hne : fieldVal c b ≠ 0 := mt (fieldVal_eq_zero_iff h).1 hb
  rw [nonzeroSquare_val_iff h, nonzeroSquare_val_iff h, fieldVal_mulElem h, fieldVal_sqrElem h,
    isSquare_mul_mul_self_iff hne, mul_ne_zero_iff_right (mul_ne_zero hne hne)]

end

/-! ## SQRT with its source valid -/

/-- SQRT in a supported class writes the value of its formula and completes (44_inv_sqrt.md R247). -/
theorem exec_sqrt {s : State} (d : FIdx) {a : FIdx} (ha : s.FValid a) (h1 : s.cfg.mod8 ≠ 1) :
    exec (.sqrt d a) s = .next (s.setF d (sqrtElem s.cfg (s.felem a))).complete := by
  refine (next_checked_f _ ha).trans (congrArg Host.Outcome.next ?_)
  rw [if_neg h1, sqrtElem]
  split <;> rfl

end Sys2Proof.Machine

namespace Sys2Proof.Proofs

open Sys2Proof Sys2Proof.Machine

/-- Settles O54: Fermat's little theorem for the power that INV takes. -/
theorem invWritesTheInverse : Obligations.InvWritesTheInverse := by
  intro s d a ha
  refine ⟨_, next_checked_f _ ha, setF_complete_writesF s d (invElem s.cfg (s.felem a)), fun hs => ?_⟩
  have hwf := wellFormed_of_inv hs
  have hp := p_gt_128 hwf
  have hcanonical := powElem_canonical hwf (s.felem a) (s.cfg.p - 2)
  rw [complete_f, setF_read_same]
  exact ⟨powElem_eq hwf _ _, hcanonical, val_invElem_mul hwf,
    fun hzero => eq_zero_of_canonical hwf hcanonical (val_powElem_eq_zero hwf hzero (by omega))⟩

/-- Settles O55: the formula of each class, taken in the field of integers modulo `p`. -/
theorem sqrtWritesTheFormula : Obligations.SqrtWritesTheFormula := by
  intro s d a ha h1
  refine ⟨_, exec_sqrt d ha h1, setF_complete_writesF s d _, fun hs => ?_⟩
  have hwf := wellFormed_of_inv hs
  have hcanonical := sqrtElem_canonical hwf (s.felem a)
  rw [complete_f, setF_read_same]
  refine ⟨hcanonical, ?_, fun h5 => ?_,
    fun hzero => eq_zero_of_canonical hwf hcanonical (val_sqrtElem_eq_zero hwf hzero),
    val_sqrtElem_sq hwf h1, val_sqrtElem_sq_add hwf h1⟩
  · intro h5 v hv
    rw [sqrtElem_of_atkin h5]
    exact val_sqrtAtkin hwf _ hv
  · rw [sqrtElem_of_not_atkin h5]
    exact val_powElem hwf _ _

/-- Settles O56: Euler's criterion for the value out of residue form. -/
theorem qrTestsForNonzeroSquares : Obligations.QrTestsForNonzeroSquares := by
  intro s a ha
  refine ⟨_, next_checked_f _ ha, setT_complete_writesT s _, fun hs => ?_⟩
  rw [complete_tFlag, setT_tFlag]
  exact residueFlag_iff (wellFormed_of_inv hs) _

/-- Settles O57: the flag says that the element is a non-zero square, and SQRT writes a root of it. -/
theorem sqrtOfResidueSquaresBack : Obligations.SqrtOfResidueSquaresBack := by
  intro s q d a e hs ha h1 hqr hflag
  have hwf := wellFormed_of_inv hs
  have hsquare : NonzeroSquare s.cfg (val s.cfg (s.felem a).g) := by
    obtain rfl := Host.Outcome.next.inj ((next_checked_f _ ha).symm.trans hqr)
    exact (residueFlag_iff hwf _).1 hflag
  have hwrite := setF_complete_writesF s d (sqrtElem s.cfg (s.felem a))
  set t := (s.setF d (sqrtElem s.cfg (s.felem a))).complete
  have hvalid : t.FValid d := congrArg FReg.valid hwrite.dest
  have hread : t.felem d = sqrtElem s.cfg (s.felem a) := congrArg FReg.elem hwrite.dest
  refine ⟨t, _, exec_sqrt d ha h1, next_checked_f _ hvalid, ?_⟩
  rw [State.felem, complete_f, setF_read_same, hwrite.completed.cfg, hread, val_sqrElem hwf, ← pow_two]
  exact val_sqrtElem_sq hwf h1 hsquare

/-- Settles O58: the test looks for non-zero squares, which such a product keeps. -/
theorem residueFlagIgnoresSquares : Obligations.ResidueFlagIgnoresSquares := by
  intro c b u h _ _ hu
  rw [Bool.eq_iff_iff, residueFlag_iff h, residueFlag_iff h]
  exact nonzeroSquare_mulElem_sqrElem_iff h hu

end Sys2Proof.Proofs
end

section
/-! SUPPORT for the constant-time and utility commands (45_utility.md), and PROOFS of their statements. CSWAP writes two
registers, which may be one and the same: both writes then put the same element there. -/

namespace Sys2Proof.Machine

variable {s : State} {d a : FIdx}

/-- A readable register is its element with the valid bit set (10_state.md R41). -/
theorem f_eq_felem_of_valid (ha : s.FValid a) : s.f[a] = ⟨s.felem a, true⟩ := congrArg (FReg.mk _) ha

/-! ## Writing two registers -/

/-- The second of two writes hides the first only when both go to one register, and then it does no harm if they write
the same element. -/
theorem setF_setF_read_fst {u v : FElem} (h : d = a → u = v) : ((s.setF d u).setF a v).f[d] = ⟨u, true⟩ := by
  by_cases hda : d = a
  · subst hda
    rw [setF_read_same, h rfl]
  · rw [setF_read_other _ _ hda, setF_read_same]

theorem setF_setF_read_other {i : FIdx} (u v : FElem) (hd : i ≠ d) (ha : i ≠ a) :
    ((s.setF d u).setF a v).f[i] = s.f[i] := by
  rw [setF_read_other _ _ ha, setF_read_other _ _ hd]

/-- CSWAP of valid registers writes both of them whatever the condition, which only selects what each takes
(45_utility.md R260). -/
theorem exec_cswap (sel c : Bool) (ha : s.FValid a) (hd : s.FValid d) :
    exec (.cswap d a sel c) s = .next
      ((s.setF d (if condition sel c s.tFlag then s.felem a else s.felem d)).setF a
        (if condition sel c s.tFlag then s.felem d else s.felem a)).complete := by
  refine (next_checked_ff _ ha hd).trans (congrArg _ ?_)
  split <;> rfl

end Sys2Proof.Machine

namespace Sys2Proof.Proofs

open Sys2Proof Sys2Proof.Machine

/-- Settles O59: what a register takes is the other's element with the condition and its own without it, and for
`d = a` the two agree. -/
theorem cswapExchangesOnCondition : Obligations.CswapExchangesOnCondition := by
  intro s d a sel c ha hd
  refine ⟨_, exec_cswap sel c ha hd, (((RegistersOnly.refl s).setF _ _).setF _ _).completed, ?_, ?_,
    fun i hid hia => setF_setF_read_other _ _ hid hia, rfl, rfl⟩
  all_goals
    intro hcond
    rw [← condition] at hcond
    rw [complete_f, setF_setF_read_fst (by rintro rfl; rfl), setF_read_same, f_eq_felem_of_valid ha,
      f_eq_felem_of_valid hd, hcond]
    exact ⟨rfl, rfl⟩

/-- Settles O60: the one write of CMOV, of the element that the condition selects. -/
theorem cmovMovesOnCondition : Obligations.CmovMovesOnCondition :=
  fun s d _ _ _ ha hd => ⟨_, next_checked_ff _ ha hd, setF_complete_writesF s d _⟩

/-- Settles O38: the one write of COPY, of the source's element. -/
theorem copyIsExact : Obligations.CopyIsExact :=
  fun s d a ha => ⟨_, next_checked_f _ ha, setF_complete_writesF s d (s.felem a)⟩

end Sys2Proof.Proofs
end

section
/-! SUPPORT for what ends the error state (60_exceptions.md R288, R289): each turn keeps `ERR = 1` but for a write of
CLRERR or SRST and the pin going low; and PROOFS of the statements on errors (60_exceptions.md). -/

namespace Sys2Proof.Machine

section

variable {s t : State}

/-! ## What keeps the error state -/

/-- However a command ends, it does not end the error state. -/
theorem CommandResult.keeps_err (h : CommandResult s t) (he : s.error.err = true) : t.error.err = true := by
  obtain ⟨code, o, -, rfl⟩ | ⟨u, ⟨f, x, b, rfl⟩, rfl⟩ := h
  · exact errorRecord_err ..
  · exact he

theorem engineTurn_keeps_err (h : engineTurn s = .next t) (he : s.error.err = true) : t.error.err = true := by
  obtain ⟨-, rfl⟩ | ⟨-, -, rfl⟩ | ⟨w, -, -, hw⟩ := engineTurn_cases h
  · exact he
  · rwa [beginCommand_of_nothing_to_begin (.inl he)]
  · exact (executeWord_commandResult hw).keeps_err he

/-- A write that is taken keeps the error state, unless it sets SRST or CLRERR of CTRL (10_state.md R54). -/
theorem writeTarget_err {target : Target} {data : Word} (hw : s.writeTarget data target = some t)
    (he : s.error.err = true) :
    t.error.err = true ∨ (target = .ctrl ∧ (data.getLsbD 0 = true ∨ data.getLsbD 1 = true)) := by
  cases target with
  | ctrl =>
    cases hw
    cases hsrst : data.getLsbD 0 with
    | true => exact .inr ⟨rfl, .inl rfl⟩
    | false =>
      cases hclr : data.getLsbD 1 with
      | true => exact .inr ⟨rfl, .inr rfl⟩
      | false =>
        left
        rwa [writeCtrl_of_no_srst hsrst, hclr, if_neg Bool.false_ne_true]
  | status =>
    cases hw
    exact .inl he
  | cmd =>
    cases hw
    rw [writeCmd_of_err he]
    exact .inl he
  | xword i j =>
    cases hw
    exact .inl he
  | _ => cases hw

theorem hostWrite_err (addr : BitVec 14) (size : AccessSize) (data : Word) (he : s.error.err = true) :
    (s.hostWrite addr size data).error.err = true ∨
      (addr = 0x010 ∧ size = .bits32 ∧ (data.getLsbD 0 = true ∨ data.getLsbD 1 = true)) := by
  obtain href | ⟨target, t, hacc, hw, heq⟩ := hostWrite_accepts_or_refused s addr size data
  · rw [href]
    exact .inl he
  · rw [heq]
    obtain hkeep | ⟨rfl, hbits⟩ := writeTarget_err hw he
    · exact .inl hkeep
    · obtain ⟨hsize, -, haddr⟩ := accessTarget_sound hacc.reaches
      exact .inr ⟨BitVec.eq_of_toNat_eq haddr, hsize, hbits⟩

/-- What a host access can do to the error state: keep it, unless it writes SRST or CLRERR (60_exceptions.md R288). -/
theorem hostAccess_err (a : Access) (he : s.error.err = true) :
    (s.hostAccess a).error.err = true ∨
      ∃ data, a = .write 0x010 .bits32 data ∧ (data.getLsbD 0 = true ∨ data.getLsbD 1 = true) := by
  unfold State.hostAccess
  split
  · cases a with
    | read addr size =>
      left
      rwa [(hostRead_sameCore s addr size).error]
    | write addr size data =>
      obtain hkeep | ⟨rfl, rfl, hbits⟩ := hostWrite_err addr size data he
      · exact .inl hkeep
      · exact .inr ⟨data, rfl, hbits⟩
  · exact .inl he

end

/-! ## Commands that refuse their operand -/

section

variable {s : State}

/-- TORES of an integer at or above `p` (40_residue.md R131). -/
theorem exec_tores_of_le (d : FIdx) {a : XIdx} (hv : s.XValid a) (hle : s.cfg.p ≤ s.xval a) :
    exec (.tores d a) s = .next (s.raise .range (some (.x a))) :=
  congrArg Host.Outcome.next ((checked_of_valid s _ (List.forall_mem_singleton.2 hv)).trans (if_pos hle))

/-- RDD outside the contract of the reduction (41_reduction.md R157). -/
theorem exec_rdd_of_gt (d : XIdx) {a b : XIdx} (ha : s.XValid a) (hb : s.XValid b)
    (hd : reduceBound s.cfg < doubleWidth s a b) :
    exec (.rdd d a b) s = .next (s.raise .range (some (.x a))) :=
  congrArg Host.Outcome.next
    ((checked_of_valid s _ (List.forall_mem_cons.2 ⟨ha, List.forall_mem_singleton.2 hb⟩)).trans (if_pos hd))

/-- SQRT in the class without a square root (44_inv_sqrt.md R246). -/
theorem exec_sqrt_of_unsupported (d : FIdx) {a : FIdx} (ha : s.FValid a) (h1 : s.cfg.mod8 = 1) :
    exec (.sqrt d a) s = .next (s.raise .sqrtUnsup none) :=
  (next_checked_f _ ha).trans (congrArg Host.Outcome.next (if_pos h1))

end

/-! ## How a command ends -/

/-- A command that ends has completed or has entered an error with a code (60_exceptions.md R287). -/
theorem CommandResult.completed_or_entersError {s t : State} (h : CommandResult s t) :
    Completed s t ∨ ∃ code o, code ≠ .none ∧ EntersError s t code o := by
  obtain ⟨code, o, hcode, rfl⟩ | ⟨u, hu, rfl⟩ := h
  · exact .inr ⟨code, o, hcode, raise_entersError s code o⟩
  · exact .inl hu.completed

end Sys2Proof.Machine

namespace Sys2Proof.Proofs

open Sys2Proof Sys2Proof.Machine

/-- Settles O17: the engine's turn and the pin going high keep the error state, and a host access keeps it unless it
writes SRST or CLRERR. -/
theorem onlyClrerrOrResetEndsError : Obligations.OnlyClrerrOrResetEndsError := by
  intro s t hstep he hended
  have hnot : t.error.err ≠ true := by simp [hended]
  obtain ⟨rest, -, hturn⟩ | ⟨a, rest, hturns, rfl⟩ | ⟨level, rest, hturns, rfl⟩ := step_cases hstep
  · exact absurd (engineTurn_keeps_err hturn he) hnot
  · obtain ⟨data, rfl, hbits⟩ := (hostAccess_err (s := { s with turns := rest }) a he).resolve_left hnot
    exact ⟨rest, .inl ⟨data, hturns, hbits⟩⟩
  · cases level with
    | false => exact ⟨rest, .inr hturns⟩
    | true => exact absurd he hnot

/-- Settles O19: the engine's move executes the word in flight, whose result is a completion or an error entry. -/
theorem commandCompletesOrEntersError : Obligations.CommandCompletesOrEntersError := by
  intro s rest w hmoves hw
  obtain ⟨t, ht, hres⟩ := executeWord_result w { s with turns := rest }
  exact ⟨t, (step_of_inflight hmoves hw).trans ht, hres.completed_or_entersError⟩

/-- Settles O22: past its operand check each command meets its bound or its class, and raises the error. -/
theorem operandValuesThatEnterError : Obligations.OperandValuesThatEnterError := by
  refine ⟨fun s d a hv hle => ⟨_, exec_tores_of_le d hv hle, raise_entersError ..⟩,
    fun s d a b ha hb hd => ?_,
    fun s d a h1 ha => ⟨_, exec_sqrt_of_unsupported d ha h1, raise_entersError ..⟩⟩
  rw [← reduceBound_eq] at hd
  exact ⟨_, exec_rdd_of_gt d ha hb hd, raise_entersError ..⟩

end Sys2Proof.Proofs
end

section
/-! SUPPORT for the reset pin: what a turn does while it is low and when it goes high (70_reset_and_hazards.md R320);
and PROOFS of the statements on reset (70_reset_and_hazards.md). -/

namespace Sys2Proof.Machine

section

variable {s : State} {rest : List Turn}

/-! ## A step of a well-formed build, by whose turn it is -/

theorem step_of_resetPin {level : Bool} (hwf : s.cfg.wellFormed = true) (h : s.turns = .resetPin level :: rest) :
    step s = .next (State.setResetPin { s with turns := rest } level) := by
  rw [step_of_wellFormed hwf, takeTurn, h]

theorem step_of_hostTurn {a : Access} (hwf : s.cfg.wellFormed = true) (h : s.turns = .host a :: rest) :
    step s = .next (State.hostAccess { s with turns := rest } a) := by
  rw [step_of_wellFormed hwf, takeTurn, h]

theorem step_of_engineTurn (hwf : s.cfg.wellFormed = true) (h : s.turns = .engine :: rest) :
    step s = engineTurn { s with turns := rest } := by
  rw [step_of_wellFormed hwf, takeTurn, h]

/-! ## While the pin is low -/

/-- An access during reset is not answered, and changes nothing else (notes/assumptions/5.md). -/
theorem hostAccess_of_in_reset (hr : s.rstN = false) (a : Access) : s.hostAccess a = { s with reply := none } := by
  simp [State.hostAccess, hr]

theorem engineTurn_of_in_reset (hr : s.rstN = false) : engineTurn s = .next s := by
  simp [engineTurn, hr]

/-- With no reply left over, an access during reset changes nothing but the turns. -/
theorem step_of_hostTurn_in_reset {a : Access} (hwf : s.cfg.wellFormed = true) (hr : s.rstN = false)
    (hreply : s.reply = none) (h : s.turns = .host a :: rest) : step s = .next { s with turns := rest } := by
  rw [step_of_hostTurn hwf h, hostAccess_of_in_reset (s := { s with turns := rest }) hr, ← hreply]

theorem step_of_engineTurn_in_reset (hwf : s.cfg.wellFormed = true) (hr : s.rstN = false)
    (h : s.turns = .engine :: rest) : step s = .next { s with turns := rest } :=
  (step_of_engineTurn hwf h).trans (engineTurn_of_in_reset hr)

/-! ## The pin going high -/

/-- The pin going high after reset releases the block, and keeps the reset values. -/
theorem setResetPin_true_of_resetState (c : Cfg) (level : Bool) (turns : List Turn) :
    (resetState c level turns).setResetPin true = resetState c true turns := rfl

/-! ## What a host reads of the build -/

/-- The words of the modulus window depend on the build alone (10_state.md R43). -/
theorem readTarget_mod_eq_of_cfg_eq {t : State} (h : t.cfg = s.cfg) (j : Nat) :
    t.readTarget (.mod j) = s.readTarget (.mod j) := by
  rw [State.readTarget, State.readTarget, h]

end

end Sys2Proof.Machine

namespace Sys2Proof.Proofs

open Sys2Proof Sys2Proof.Machine

/-- Settles O11: the write is a soft reset, and since the host moves the pin is high. -/
theorem softResetRestoresResetValues : Obligations.SoftResetRestoresResetValues := by
  intro s rest data hmoves hsrst
  have hpin : State.rstN { s with turns := rest } = true := hmoves.running
  rw [step_of_ctrlWrite hmoves, writeCtrl_of_srst hsrst, softReset_eq_resetState, hpin]
  rfl

/-- Settles O12: low leads to the reset state, from which no turn moves the block until the pin is high again. -/
theorem resetPinHoldsResetValues : Obligations.ResetPinHoldsResetValues := by
  intro s rest hwf
  refine ⟨fun hlow => ?_, fun hreset => ?_⟩
  · rw [step_of_resetPin hwf hlow, setResetPin_false_eq_resetState]
  · have hpin : s.rstN = false := congrArg State.rstN hreset
    have hreply : s.reply = none := congrArg State.reply hreset
    refine ⟨fun a hhost => step_of_hostTurn_in_reset hwf hpin hreply hhost,
      step_of_engineTurn_in_reset hwf hpin, fun hhigh => ?_⟩
    have hvalues : { s with turns := rest } = resetState s.cfg false rest :=
      congrArg (fun u : State => { u with turns := rest }) hreset
    rw [step_of_resetPin hwf hhigh, hvalues, setResetPin_true_of_resetState]
    rfl

/-- Settles O16: a step keeps the build, on which alone these reads and the ROM depend. -/
theorem buildConstantsNeverChange : Obligations.BuildConstantsNeverChange := by
  intro s t hstep
  obtain ⟨-, hcfg⟩ := step_frame hstep
  refine ⟨hcfg, readTarget_eq_of_cfg_eq hcfg, readTarget_mod_eq_of_cfg_eq hcfg, fun k => ?_⟩
  rw [hcfg]

end Sys2Proof.Proofs
end
